-- ==== Sys2Proof/Word.lean ====
section
/-! DEFINITION. The words of the block (00_scope.md R9): bytes, 32-bit addresses, 16-bit pages and record
address fields. All are unsigned; nothing in the block is signed (30_encoding.md R113). -/

namespace Sys2Proof

/-- A byte, 8 bits, bit 7 the most significant (R9). -/
abbrev Byte := BitVec 8

/-- A target address, `ADDR_W` = 32 bits (R7). -/
abbrev Addr := BitVec 32

/-- A page number, `PAGE_W` = 16 bits (R7), and the 16-bit address field of a record (R33). -/
abbrev Half16 := BitVec 16

end Sys2Proof
end

