-- ==== Sys2Proof/Config.lean ====
section
/-! DEFINITION. The constants and the open parameters of 00_scope.md R7, what a channel call can answer
(40_framing.md R141, R142), and the free values of the environment (R143). -/

namespace Sys2Proof

/-- `SYNC` (R7, R91). -/
abbrev Config.sync : Byte := 0x7F
/-- `ACK` (R7, R92). -/
abbrev Config.ack : Byte := 0x79
/-- `NACK` (R7, R92). -/
abbrev Config.nack : Byte := 0x1F
/-- `OP_GO`, fixed (R7, R96). -/
abbrev Config.opGo : Byte := 0x21
/-- `READ_MAX` (R7). -/
abbrev Config.readMax : Nat := 256
/-- `ERASE_BUF` (R7; log 24). -/
abbrev Config.eraseBuf : Nat := 256
/-- `ERASE_MAX_PAGES` = floor((`ERASE_BUF` - 2) / 2) = 127 (R7). -/
abbrev Config.eraseMaxPages : Nat := (Config.eraseBuf - 2) / 2
/-- `REC_DATA_MAX` (R7). -/
abbrev Config.recDataMax : Nat := 255
/-- `REC_START`, the character `:` (R7). -/
abbrev Config.recStart : Byte := 0x3A

/-- The OPEN parameters of R7. They are fixed for one engine: State carries them in a field no step
writes (log 1), so that a statement about every state is a statement about every parameter value. -/
structure Params where
  opGet : Byte
  opRead : Byte
  opWrite : Byte
  opErase : Byte
  frameMax : Nat
  getBufCap : Nat
  chunk : Nat
  tTx : Nat
  tDrain : Nat
  tSync : Nat
  tAck : Nat
  tData : Nat
  tWriteAck : Nat
  tEraseAck : Nat
  deriving DecidableEq, Repr

/-- The constraints of R7's last column: five distinct opcodes, the ranges of `FRAME_MAX`, `GET_BUF_CAP`
and `CHUNK`, and `T_SYNC` > `T_DRAIN`. -/
abbrev Params.Valid (p : Params) : Prop :=
  [p.opGet, p.opRead, p.opWrite, p.opErase, Config.opGo].Nodup ∧
  1 ≤ p.frameMax ∧ p.frameMax ≤ 256 ∧ 1 ≤ p.getBufCap ∧ p.getBufCap ≤ 256 ∧
  1 ≤ p.chunk ∧ p.chunk ≤ p.frameMax ∧ p.tDrain < p.tSync

/-- `CMDSET_CAP` = `GET_BUF_CAP` - 1 (R7). -/
abbrev Params.cmdSetCap (p : Params) : Nat := p.getBufCap - 1

/-- The instance that `State.reset` and `decodeTableWord` take: R7's defaults, the opcodes among them
(PRESUMED, log 2); `GET_BUF_CAP` and the timeouts have no default in R7 (DESIGN CHOICE, log 3). -/
def Params.default : Params where
  opGet := 0x00
  opRead := 0x11
  opWrite := 0x31
  opErase := 0x43
  frameMax := 256
  getBufCap := 16
  chunk := 256
  tTx := 1
  tDrain := 1
  tSync := 2
  tAck := 1
  tData := 1
  tWriteAck := 1
  tEraseAck := 1

/-- The outcome of one `Tx` call (R141). -/
inductive TxReply where
  | ok
  | error
  deriving DecidableEq, Repr, Inhabited

/-- The outcome of one `Rx` call (R142); `ok b` holds exactly the bytes asked for. -/
inductive RxReply where
  | ok (b : List Byte)
  | timeout
  | error
  deriving DecidableEq, Repr, Inhabited

/-- Which of the three outcomes of R142 a free receive has. -/
inductive RxKind where
  | ok
  | timeout
  | error
  deriving DecidableEq, Repr, Inhabited

/-- FREE VALUE (R143, U28; log 5): the outcome of the k-th transmit no script answers. -/
opaque Config.freeTxReply : Nat → TxReply
/-- FREE VALUE (R143, U28; log 5): the outcome of the k-th receive no script answers. -/
opaque Config.freeRxKind : Nat → RxKind
/-- FREE VALUE (R143, U28; log 5): byte i of the k-th receive no script answers. -/
opaque Config.freeRxByte : Nat → Nat → Byte

/-- FREE VALUE (10_state.md R33, U24; log 26): `rec_addr` after the k-th parse that failed. -/
opaque Config.freeRecAddr : Nat → Half16
/-- FREE VALUE (10_state.md R33, U24; log 26): `rec_type` after the k-th parse that failed. -/
opaque Config.freeRecType : Nat → Byte
/-- FREE VALUE (10_state.md R33, U24; log 26): `rec_count` after the k-th parse that failed. -/
opaque Config.freeRecCount : Nat → Byte
/-- FREE VALUE (10_state.md R33, U24; log 26): `rec_data[i]` after the k-th parse that failed. -/
opaque Config.freeRecByte : Nat → Nat → Byte
/-- FREE VALUE (10_state.md R33, U24; log 26): `rec_cksum` after the k-th parse that failed. -/
opaque Config.freeRecCksum : Nat → Byte

end Sys2Proof
end

