-- ==== Sys2Proof/Syntax.lean ====
section
/-! DEFINITION. The instructions: one constructor for each of the 27 rows of spec/opcode_table.json
(00_scope.md R2; 30_encoding.md R90, R108, R118), and the encoding spaces they live in. -/

namespace Sys2Proof

/-- The eight operations a host requests (R2, R118), the values of the 3-bit register `op`. -/
inductive Op where
  | handshake
  | get
  | read
  | write
  | erase
  | go
  | goEntry
  | upload
  deriving DecidableEq, Repr

/-- One constructor per row of the opcode table. -/
inductive Instr where
  -- op select codes on the command port (R118); the operands are the operand registers of R32
  | handshake
  | get
  | read
  | write
  | erase
  | go
  | goEntry
  | upload
  -- sent frames
  /-- `F_SYNC` (R91) -/
  | sync
  /-- `F_CMD` of the five wire commands (R93, R94) -/
  | cmdGet
  | cmdRead
  | cmdWrite
  | cmdErase
  | cmdGo
  /-- `F_ADDR` for address `a` (R97) -/
  | addr (a : Addr)
  /-- `F_LEN`, its first byte `n` = L - 1 (R98) -/
  | len (n : Byte)
  /-- `F_PAY` of the bytes `d` (R100) -/
  | pay (d : List Byte)
  /-- `F_ERASE` of the page numbers (R103) -/
  | erasePay (pages : List Half16)
  -- received forms
  /-- `F_RSP` 0x79, 0x1F, and every other value (R92, R144) -/
  | ack
  | nack
  | rspOther (r : Byte)
  /-- `F_GETRSP`: version byte, then the opcodes (R102) -/
  | getRsp (version : Byte) (opcodes : List Byte)
  /-- `F_RDDATA` (R104) -/
  | rdData (d : List Byte)
  -- Intel-HEX records (R105, R108)
  /-- `DATA`: address field and data (R250) -/
  | recData (a : Half16) (d : List Byte)
  /-- `EOF`: address field and data, neither used (R251) -/
  | recEof (a : Half16) (d : List Byte)
  /-- `ELA`: address field (not used), two data bytes (R252) -/
  | recEla (a : Half16) (d0 d1 : Byte)
  /-- `SLA`: address field (not used), four data bytes (R253) -/
  | recSla (a : Half16) (d0 d1 d2 d3 : Byte)
  deriving DecidableEq, Repr

/-- Where a byte sequence is read as an instruction: R90's kinds of frame, the op select code, and the text
of a record. One byte sequence may mean different things in different spaces; the phase of the engine
says which one is read (log 15). -/
inductive Space where
  | opSelect
  | sync
  | command
  | address
  | length
  | payload
  | erase
  | response
  | getRsp
  | readData
  | hexLine
  deriving DecidableEq, Repr

/-- A parsed record: the record registers of 10_state.md R33 less `rec_valid`. `rec_count` is the
length of `data`. -/
structure Record where
  addr : Half16
  type : Byte
  data : List Byte
  cksum : Byte
  deriving DecidableEq, Repr

/-- `rec_count` (R33). -/
abbrev Record.count (r : Record) : Nat := r.data.length

/-- Why a byte sequence is no instruction of a space. -/
inductive Reject where
  /-- The sequence has not the length the space asks for (R90). -/
  | badLength
  /-- An op select value that does not fit 3 bits (R118). -/
  | badOpSelect
  /-- Not 0x7F (R91). -/
  | notSync
  /-- The two bytes of `F_CMD` or `F_LEN` do not XOR to 0xFF (R111). -/
  | badComplement
  /-- `F_CMD` with an opcode that is none of the five (R94). -/
  | unknownOpcode
  /-- The bytes of a frame do not XOR to 0x00 (R97, R100, R103). -/
  | badXor
  /-- The count byte of a frame and its length disagree, or the count is out of range (R100, R102, R103). -/
  | badCount
  /-- MalformedRecord: no start marker (R241). -/
  | noMarker
  /-- MalformedRecord: fewer than 9 characters (R242). -/
  | shortHeader
  /-- MalformedRecord: an invalid hexadecimal digit (R242, R243). -/
  | badDigit
  /-- MalformedRecord: fewer than 11 + 2*bc characters (R244). -/
  | shortLine
  /-- MalformedRecord: checksum mismatch (R245). -/
  | badChecksum
  /-- UnknownRecordType (R246, R249). -/
  | unknownType
  /-- MalformedRecord: `ELA` without 2 or `SLA` without 4 data bytes (R247). -/
  | badTypeCount
  deriving DecidableEq, Repr

/-- The result of decoding. -/
inductive Decoded where
  | ok (i : Instr)
  | reject (r : Reject)
  deriving DecidableEq, Repr

/-- The result of `Parse` (R240). -/
inductive Parsed where
  | ok (r : Record)
  | err (e : Reject)
  deriving DecidableEq, Repr

end Sys2Proof
end

