-- ==== Sys2Proof/WellFormed.lean ====
section
/-! DEFINITION. Which instructions are well formed: the operand ranges of 30_encoding.md R98 to R104 and
R108. An encoding exists exactly for a well-formed instruction. -/

namespace Sys2Proof

/-- The operand ranges. `PAY` holds 1 .. `FRAME_MAX` bytes (R100), `ERASEPAY` 1 .. `ERASE_MAX_PAGES` pages
(R103), `RSP_OTHER` neither of the two assigned values (R92), `GETRSP` at most 255 opcodes (R102), `RDDATA`
1 .. 256 bytes (R104), a record at most 255 data bytes (R105, R108). -/
def Instr.wf (cfg : Params) : Instr → Bool
  | .pay d => decide (1 ≤ d.length ∧ d.length ≤ cfg.frameMax ∧ d.length ≤ 256)
  | .erasePay ps => decide (1 ≤ ps.length ∧ ps.length ≤ Config.eraseMaxPages)
  | .rspOther r => decide (r ≠ Config.ack ∧ r ≠ Config.nack)
  | .getRsp _ ops => decide (ops.length ≤ 255)
  | .rdData d => decide (1 ≤ d.length ∧ d.length ≤ Config.readMax)
  | .recData _ d => decide (d.length ≤ Config.recDataMax)
  | .recEof _ d => decide (d.length ≤ Config.recDataMax)
  | .handshake | .get | .read | .write | .erase | .go | .goEntry | .upload => true
  | .sync | .cmdGet | .cmdRead | .cmdWrite | .cmdErase | .cmdGo => true
  | .addr _ | .len _ | .ack | .nack | .recEla _ _ _ | .recSla _ _ _ _ _ => true

end Sys2Proof
end

