-- ==== Sys2Proof/Decode.lean ====
section
/-! DEFINITION. The byte computations of 30_encoding.md, the decoder of every encoding space, the record parser
of 43_hex_parser.md, and after them the encoder. Both are written from the layout tables of the
spec; every number in them is the spec's. -/

namespace Sys2Proof

/-! ### Checksums, complements, addresses (R99, R110 to R112) -/

/-- `xor8(s)` (R110). -/
def xor8 (s : List Byte) : Byte := s.foldl (· ^^^ ·) 0x00

/-- `cks_hex(s)` (R112): (256 - (sum of the bytes mod 256)) mod 256. -/
def cksHex (s : List Byte) : Byte :=
  BitVec.ofNat 8 (256 - (s.map BitVec.toNat).sum % 256)

/-- `~b` = b XOR 0xFF (R111). -/
def byteCompl (b : Byte) : Byte := b ^^^ 0xFF

/-- `addr_bytes(a)` (R99), most significant byte first (20_memory.md R68). -/
def addrBytes (a : Addr) : List Byte :=
  [a.extractLsb' 24 8, a.extractLsb' 16 8, a.extractLsb' 8 8, a.extractLsb' 0 8]

/-- Four bytes as a 32-bit value, most significant first (R97, R109):
`b0 << 24 | b1 << 16 | b2 << 8 | b3`. -/
def addrOf (b0 b1 b2 b3 : Byte) : Addr :=
  b0.setWidth 32 <<< 24 ||| b1.setWidth 32 <<< 16 ||| b2.setWidth 32 <<< 8 ||| b3.setWidth 32

/-- The two bytes of a 16-bit value, most significant first (R103, R107). -/
def bytes16 (p : Half16) : List Byte := [p.extractLsb' 8 8, p.extractLsb' 0 8]

/-- Two bytes as a 16-bit value, most significant first (R107). -/
def half16Of (h l : Byte) : Half16 := h.setWidth 16 <<< 8 ||| l.setWidth 16

/-- `base_address` of an `ELA` record: `(d0 << 8 | d1) << 16` in 32 bits (R109, R113). -/
def elaBase (d0 d1 : Byte) : Addr := (d0.setWidth 32 <<< 8 ||| d1.setWidth 32) <<< 16

/-- The page list of the erase frame, two bytes a page, high byte first (R103). -/
def pageBytes (ps : List Half16) : List Byte := ps.flatMap bytes16

/-- The pages of a list of bytes, two bytes a page; none when a byte is left over. -/
def pagesOf : List Byte → Option (List Half16)
  | [] => some []
  | [_] => none
  | h :: l :: rest => (pagesOf rest).map (half16Of h l :: ·)

/-- A count 1 .. 256 as the byte `count - 1` (R101). -/
def countByte (n : Nat) : Byte := BitVec.ofNat 8 (n - 1)

/-- A byte sequence closed by its `xor8` checksum (R97, R100, R103). -/
def withXor (s : List Byte) : List Byte := s ++ [xor8 s]

/-! ### Hexadecimal text (R105 to R107) -/

/-- The value of a hexadecimal digit character (R106). -/
def hexDigit (c : Byte) : Option Byte :=
  if 0x30 ≤ c ∧ c ≤ 0x39 then some (c - 0x30)
  else if 0x41 ≤ c ∧ c ≤ 0x46 then some (c - 0x41 + 10)
  else if 0x61 ≤ c ∧ c ≤ 0x66 then some (c - 0x61 + 10)
  else none

/-- `HexByte(line, k)` (R240): the byte at characters k and k+1, the first one the high nibble. -/
def hexByte (chars : List Byte) (k : Nat) : Option Byte := do
  let hi ← hexDigit (← chars[k]?)
  let lo ← hexDigit (← chars[k + 1]?)
  return 16 * hi + lo

/-- `n` bytes at characters k, k+2, ... (R243). -/
def hexBytes (chars : List Byte) (k : Nat) : Nat → Option (List Byte)
  | 0 => some []
  | n + 1 => do
    let b ← hexByte chars k
    let rest ← hexBytes chars (k + 2) n
    return b :: rest

/-- The bytes a record's checksum covers: `[bc, ah, al, ty] ++ d` (R112, R245). -/
def recordBytes (a : Half16) (ty : Byte) (d : List Byte) : List Byte :=
  BitVec.ofNat 8 d.length :: bytes16 a ++ ty :: d

/-- The record with these fields and the checksum R112 asks for. -/
def Record.make (a : Half16) (ty : Byte) (d : List Byte) : Record :=
  ⟨a, ty, d, cksHex (recordBytes a ty d)⟩

/-- The checks of `Parse` after the digits (R245, R246, R247), in that order, and its result (R248). -/
def parseChecked (a : Half16) (ty : Byte) (d : List Byte) (ck : Byte) : Parsed :=
  if ck ≠ cksHex (recordBytes a ty d) then .err .badChecksum
  else if ty ≠ 0x00 ∧ ty ≠ 0x01 ∧ ty ≠ 0x04 ∧ ty ≠ 0x05 then .err .unknownType
  else if ty = 0x04 ∧ d.length ≠ 2 then .err .badTypeCount
  else if ty = 0x05 ∧ d.length ≠ 4 then .err .badTypeCount
  else .ok ⟨a, ty, d, ck⟩

/-- The length check and the data and checksum digits (R244, R243). -/
def parseBody (chars : List Byte) (bc ah al ty : Byte) : Parsed :=
  if chars.length < 11 + 2 * bc.toNat then .err .shortLine
  else
    match hexBytes chars 9 bc.toNat, hexByte chars (9 + 2 * bc.toNat) with
    | some d, some ck => parseChecked (half16Of ah al) ty d ck
    | _, _ => .err .badDigit

/-- `Parse(line)` (R240): start marker (R241), header (R242), then the rest. -/
def parse (chars : List Byte) : Parsed :=
  if chars[0]? ≠ some Config.recStart then .err .noMarker
  else if chars.length < 9 then .err .shortHeader
  else
    match hexByte chars 1, hexByte chars 3, hexByte chars 5, hexByte chars 7 with
    | some bc, some ah, some al, some ty => parseBody chars bc ah al ty
    | _, _, _, _ => .err .badDigit

/-- A record as the instruction its type names (R108); none for a type or a count that no
successful parse gives. -/
def Record.toInstr (r : Record) : Option Instr :=
  if r.type = 0x00 then some (.recData r.addr r.data)
  else if r.type = 0x01 then some (.recEof r.addr r.data)
  else if r.type = 0x04 then
    match r.data with
    | [d0, d1] => some (.recEla r.addr d0 d1)
    | _ => none
  else if r.type = 0x05 then
    match r.data with
    | [d0, d1, d2, d3] => some (.recSla r.addr d0 d1 d2 d3)
    | _ => none
  else none

/-! ### The decoder -/

/-- The operation of a 3-bit op select code: all eight are assigned (R118). -/
def opOfCode (c : BitVec 3) : Op :=
  match c.toNat with
  | 0 => .handshake
  | 1 => .get
  | 2 => .read
  | 3 => .write
  | 4 => .erase
  | 5 => .go
  | 6 => .goEntry
  | _ => .upload

/-- The op select code of an operation (R118). -/
def Op.code : Op → BitVec 3
  | .handshake => 0
  | .get => 1
  | .read => 2
  | .write => 3
  | .erase => 4
  | .go => 5
  | .goEntry => 6
  | .upload => 7

/-- The instruction of an operation. -/
def Op.toInstr : Op → Instr
  | .handshake => .handshake
  | .get => .get
  | .read => .read
  | .write => .write
  | .erase => .erase
  | .go => .go
  | .goEntry => .goEntry
  | .upload => .upload

/-- What a 3-bit op select code on the command port asks for (R118). -/
def decodeOp (c : BitVec 3) : Instr := (opOfCode c).toInstr

/-- What one received response byte is (R92, R144). -/
def decodeResponse (r : Byte) : Instr :=
  if r = Config.ack then .ack
  else if r = Config.nack then .nack
  else .rspOther r

/-- `F_CMD` (R93, R94). -/
def decodeCommand (cfg : Params) (x y : Byte) : Decoded :=
  if x ^^^ y ≠ 0xFF then .reject .badComplement
  else if x = cfg.opGet then .ok .cmdGet
  else if x = cfg.opRead then .ok .cmdRead
  else if x = cfg.opWrite then .ok .cmdWrite
  else if x = cfg.opErase then .ok .cmdErase
  else if x = Config.opGo then .ok .cmdGo
  else .reject .unknownOpcode

/-- `F_PAY` (R100): "well-formed exactly when `len(f) = f[0] + 3` and `xor8(f) = 0x00`", with 1 ..
`FRAME_MAX` data bytes. -/
def decodePayload (cfg : Params) (n : Byte) (rest : List Byte) : Decoded :=
  if rest.length ≠ n.toNat + 2 ∨ cfg.frameMax < n.toNat + 1 then .reject .badCount
  else if xor8 (n :: rest) ≠ 0x00 then .reject .badXor
  else .ok (.pay rest.dropLast)

/-- `F_ERASE` (R103): `2N + 2` bytes, N = 1 .. `ERASE_MAX_PAGES`. -/
def decodeErase (n : Byte) (rest : List Byte) : Decoded :=
  if rest.length ≠ 2 * (n.toNat + 1) + 1 ∨ Config.eraseMaxPages < n.toNat + 1 then .reject .badCount
  else if xor8 (n :: rest) ≠ 0x00 then .reject .badXor
  else
    match pagesOf rest.dropLast with
    | some ps => .ok (.erasePay ps)
    | none => .reject .badCount

/-- Decoding is total on any bytes in any space, and rejects by name. -/
def decode (cfg : Params) (sp : Space) (bytes : List Byte) : Decoded :=
  match sp, bytes with
  | .opSelect, [b] => if b.toNat < 8 then .ok (decodeOp (b.setWidth 3)) else .reject .badOpSelect
  | .sync, [b] => if b = Config.sync then .ok .sync else .reject .notSync
  | .command, [x, y] => decodeCommand cfg x y
  | .address, [b0, b1, b2, b3, c] =>
    if xor8 [b0, b1, b2, b3, c] = 0x00 then .ok (.addr (addrOf b0 b1 b2 b3)) else .reject .badXor
  | .length, [x, y] => if x ^^^ y = 0xFF then .ok (.len x) else .reject .badComplement
  | .payload, n :: rest => decodePayload cfg n rest
  | .erase, n :: rest => decodeErase n rest
  | .response, [r] => .ok (decodeResponse r)
  | .getRsp, n :: v :: ops => if ops.length = n.toNat then .ok (.getRsp v ops) else .reject .badCount
  | .readData, d =>
    if 1 ≤ d.length ∧ d.length ≤ Config.readMax then .ok (.rdData d) else .reject .badLength
  | .hexLine, line =>
    match parse line with
    | .ok r =>
      match r.toInstr with
      | some i => .ok i
      | none => .reject .unknownType
    | .err e => .reject e
  | _, _ => .reject .badLength

/-! ### The encoder -/

/-- The upper-case hexadecimal digit of a value 0 .. 15 (R106, R254). -/
def hexChar (v : Byte) : Byte := if v < 10 then 0x30 + v else 0x41 + (v - 10)

/-- The two digits of a byte, the high nibble first (R106). -/
def hexPair (b : Byte) : List Byte := [hexChar (b >>> 4), hexChar (b &&& 0x0F)]

/-- `EncodeRecord(bc, addr, ty, d)` (43_hex_parser.md R254), `bc` the length of `d`. -/
def encodeRecord (a : Half16) (ty : Byte) (d : List Byte) : List Byte :=
  Config.recStart :: (recordBytes a ty d ++ [cksHex (recordBytes a ty d)]).flatMap hexPair

/-- `F_CMD` for an opcode: `[op, ~op]` (R93). -/
def cmdFrame (op : Byte) : List Byte := [op, byteCompl op]

/-- The space an instruction is encoded in. -/
def Instr.space : Instr → Space
  | .handshake | .get | .read | .write | .erase | .go | .goEntry | .upload => .opSelect
  | .sync => .sync
  | .cmdGet | .cmdRead | .cmdWrite | .cmdErase | .cmdGo => .command
  | .addr _ => .address
  | .len _ => .length
  | .pay _ => .payload
  | .erasePay _ => .erase
  | .ack | .nack | .rspOther _ => .response
  | .getRsp _ _ => .getRsp
  | .rdData _ => .readData
  | .recData _ _ | .recEof _ _ | .recEla _ _ _ | .recSla _ _ _ _ _ => .hexLine

/-- The bytes of an instruction, first transmitted, received or read byte first. -/
def encode (cfg : Params) : Instr → List Byte
  | .handshake => [0x00]
  | .get => [0x01]
  | .read => [0x02]
  | .write => [0x03]
  | .erase => [0x04]
  | .go => [0x05]
  | .goEntry => [0x06]
  | .upload => [0x07]
  | .sync => [Config.sync]
  | .cmdGet => cmdFrame cfg.opGet
  | .cmdRead => cmdFrame cfg.opRead
  | .cmdWrite => cmdFrame cfg.opWrite
  | .cmdErase => cmdFrame cfg.opErase
  | .cmdGo => cmdFrame Config.opGo
  | .addr a => withXor (addrBytes a)
  | .len n => [n, byteCompl n]
  | .pay d => withXor (countByte d.length :: d)
  | .erasePay ps => withXor (countByte ps.length :: pageBytes ps)
  | .ack => [Config.ack]
  | .nack => [Config.nack]
  | .rspOther r => [r]
  | .getRsp v ops => BitVec.ofNat 8 ops.length :: v :: ops
  | .rdData d => d
  | .recData a d => encodeRecord a 0x00 d
  | .recEof a d => encodeRecord a 0x01 d
  | .recEla a d0 d1 => encodeRecord a 0x04 [d0, d1]
  | .recSla a d0 d1 d2 d3 => encodeRecord a 0x05 [d0, d1, d2, d3]

/-! ### The host's table words -/

/-- The bytes of a table word of `nbits` bits: byte 0 is the most significant one (30_encoding.md,
convention at its head). -/
def tableBytes (nbits w : Nat) : List Byte :=
  let n := (nbits + 7) / 8
  (List.range n).map fun k => BitVec.ofNat 8 (w >>> (8 * (n - 1 - k)))

/-- The order in which a table word, which carries no space, is tried (log 15). -/
def tableSpaces : List Space :=
  [.opSelect, .sync, .response, .command, .length, .address, .hexLine, .payload, .erase, .getRsp, .readData]

/-- The instruction of the first space that reads these bytes. -/
def decodeFirst (cfg : Params) (bytes : List Byte) : List Space → Option Instr
  | [] => none
  | sp :: rest =>
    match decode cfg sp bytes with
    | .ok i => some i
    | .reject _ => decodeFirst cfg bytes rest

/-- The instruction the decoder reads from a table word, with the default parameters. -/
def decodeTableWord (nbits w : Nat) : Option Instr :=
  decodeFirst Params.default (tableBytes nbits w) tableSpaces

end Sys2Proof
end

