-- ==== Sys2Proof/Machine/State.lean ====
section
/-! DEFINITION. The state of the block: every piece of state of 10_state.md, the parameters of the instance, the
environment's scripts and record, and the reset state (R38, R350). INVENTORY.md lists each field with its rule. -/

namespace Sys2Proof.Machine

/-- `session_state` (R23, R170), in the order of its codes. -/
inductive Session where
  | uninitialized
  | ready
  | faulted
  | relinquished
  deriving DecidableEq, Repr

/-- `status`: the error kinds in the order of their codes 0 .. 12 (60_exceptions.md R300, R301). -/
inductive Status where
  | ok
  | transportError
  | protocolNack
  | protocolTimeout
  | unsupported
  | bufferTooSmall
  | malformedRecord
  | unknownRecordType
  | notReady
  | badOperand
  | entryUnset
  | missingEof
  | lineSourceError
  deriving DecidableEq, Repr

/-- Where the engine is inside a stage: the frame is still to be sent, or its acknowledge byte is awaited. -/
inductive Half where
  | send
  | await
  deriving DecidableEq, Repr

/-- `phase` (R30), with the phase names of files 41 to 44. `HS_INIT` is the step that accepts `HANDSHAKE`,
so no state between two steps shows it (log 7). `getList` holds the length byte of R176. -/
inductive Phase where
  | idle
  | hsDrain
  | hsSyncTx
  | hsSyncAck
  | getCmd (h : Half)
  | getLen
  | getList (n : Byte)
  | hsCommit
  | rdCmd (h : Half)
  | rdAddr (h : Half)
  | rdLen (h : Half)
  | rdData
  | wrCmd (h : Half)
  | wrAddr (h : Half)
  | wrPay (h : Half)
  | erCmd (h : Half)
  | erPay (h : Half)
  | goCmd (h : Half)
  | goAddr (h : Half)
  | upNext
  | upStrip
  | upParse
  | upDispatch
  deriving DecidableEq, Repr

/-- The operand registers `arg_*` (R32). -/
structure Operands where
  addr : Addr
  len : Nat
  data : Vector Byte 256
  npages : Nat
  pages : Vector Half16 Config.eraseMaxPages
  deriving DecidableEq, Repr

/-- What a call of the line source that is not `end` yields (44_image_sequencer.md R270). -/
inductive LineEvent where
  | line (chars : List Byte)
  | error
  deriving DecidableEq, Repr

/-- A request on the command port (R21): the op select code, the operands, and for `UPLOAD` the line
source, positioned at the first line (70_reset_and_hazards.md R353; log 20). -/
structure Request where
  op : BitVec 3
  args : Operands
  lines : List LineEvent
  deriving DecidableEq, Repr

/-- What happens on the channel at a receive (40_framing.md R142): bytes that arrive together, nothing in
time, or a failure (log 6). -/
inductive RxEvent where
  | bytes (b : List Byte)
  | timeout
  | error
  deriving DecidableEq, Repr

/-- One channel call with its arguments and its outcome (R141, R142; the glossary's "trace"). -/
inductive ChanCall where
  | tx (frame : List Byte) (timeout : Nat) (reply : TxReply)
  | rx (n : Nat) (timeout : Nat) (reply : RxReply)
  deriving DecidableEq, Repr

/-- The environment (00_scope.md section 5, 1): what the host, the channel and the line source will do,
and the calls made so far, oldest first. The model's own, not state of the block (R39; log 4, log 22). -/
structure Env where
  host : List Request
  resetLine : List Bool
  txReplies : List TxReply
  rxEvents : List RxEvent
  lines : List LineEvent
  trace : List ChanCall
  deriving DecidableEq, Repr

/-- The state of the machine. -/
structure State where
  -- session registers (R23 to R26)
  session : Session
  cmdSet : List Byte
  baseAddress : Addr
  entry : Option Addr
  -- result registers and buffers (R27 to R29); a buffer holds its readable bytes (log 9)
  status : Status
  getBuf : List Byte
  rdBuf : List Byte
  -- operand registers (R32)
  op : Op
  args : Operands
  -- record registers (R33) and the current line (R34)
  recValid : Bool
  record : Record
  line : List Byte
  -- sequencer registers (R30, R31, R35, R36) and the offset of R273
  phase : Phase
  busy : Bool
  lineIndex : Nat
  txBuf : List Byte
  chunkOff : Nat
  -- the model's own: parameters (log 1), environment (log 4), counter of free values (log 5)
  cfg : Params
  env : Env
  freeCtr : Nat
  deriving DecidableEq, Repr

/-- `cmd_count` (R24). -/
abbrev State.cmdCount (s : State) : Nat := s.cmdSet.length
/-- `get_count` (R28). -/
abbrev State.getCount (s : State) : Nat := s.getBuf.length
/-- `rd_count` (R29). -/
abbrev State.rdCount (s : State) : Nat := s.rdBuf.length
/-- `entry_valid` (R26). -/
abbrev State.entryValid (s : State) : Bool := s.entry.isSome
/-- `line_len` (R34). -/
abbrev State.lineLen (s : State) : Nat := s.line.length

/-- The operand registers at reset: unspecified by R38; zero by DESIGN CHOICE (log 8). -/
def Operands.zero : Operands where
  addr := 0
  len := 0
  data := Vector.replicate 256 0
  npages := 0
  pages := Vector.replicate Config.eraseMaxPages 0

/-- The record registers at reset: unspecified by R38; zero by DESIGN CHOICE (log 10). -/
def Record.zero : Record where
  addr := 0
  type := 0
  data := []
  cksum := 0

/-- An environment in which nothing has happened and no script is laid out (log 4). -/
def Env.empty : Env where
  host := []
  resetLine := []
  txReplies := []
  rxEvents := []
  lines := []
  trace := []

/-- The machine right after reset: the values of R38 and R350. `op`, `args`, `txBuf`, `chunkOff` and `record` have
no value there (DESIGN CHOICE, log 8, log 10); `cfg`, `env` and `freeCtr` are the model's own. -/
def State.reset : State where
  session := .uninitialized
  cmdSet := []
  baseAddress := 0x00000000
  entry := none
  status := .ok
  getBuf := []
  rdBuf := []
  op := .handshake
  args := Operands.zero
  recValid := false
  record := Record.zero
  line := []
  phase := .idle
  busy := false
  lineIndex := 0
  txBuf := []
  chunkOff := 0
  cfg := Params.default
  env := Env.empty
  freeCtr := 0

/-- Why the machine stops. Both reasons are raised by the step's fetch only, in states that no run reaches
(Safety.lean: EngineInv excludes them), and are SAFE: the model stops where the spec describes nothing (log 18). -/
inductive Fault where
  /-- Raised by fetch when a record is to be dispatched while `rec_valid = 0`, or the record registers hold no
  record of the four types: 10_state.md R33 and R37 let no rule read them then. Safe. -/
  | deadRecord
  /-- Raised by fetch when `GO_ENTRY` is about to send `entry_address` while `entry_valid = 0`: 10_state.md R26
  lets no rule read it then. Safe. -/
  | unsetEntry
  deriving DecidableEq, Repr

/-- Why an instruction has no meaning. -/
inductive Refusal where
  /-- Raised by exec for an instruction without a meaning. No arm of exec does: every instruction has one. Safe. -/
  | notModelled (mnemonic : String)
  deriving DecidableEq, Repr

/-- What the host can read while `busy = 0` (70_reset_and_hazards.md R356), and `line_len` as R38's last column says
(log 19). -/
structure HostView where
  status : BitVec 4
  session : BitVec 2
  cmdSet : List Byte
  cmdCount : Nat
  baseAddress : Addr
  entryValid : Bool
  entryAddress : Option Addr
  getBuf : List Byte
  getCount : Nat
  rdBuf : List Byte
  rdCount : Nat
  lineIndex : Nat
  line : List Byte
  lineLen : Option Nat
  deriving DecidableEq, Repr

/-- What the step finds to do next. -/
inductive Fetch where
  /-- Execute `i` in `s`. -/
  | run (i : Instr) (s : State)
  /-- An action that is no instruction; its result. -/
  | internal (s : State)
  /-- Nothing the spec describes. -/
  | stop (f : Fault)
  deriving DecidableEq, Repr

end Sys2Proof.Machine
end

