-- ==== Sys2Proof/Machine/Ops.lean ====
section
/-! DEFINITION. The named operations: the ends of an operation (`fail`, `done`), the two channel primitives, acceptance
of a request, reset, and what the host reads. -/

namespace Sys2Proof.Machine

/-- What a meaning answers. -/
abbrev Result := Host.Outcome State Fault Refusal

/-! ### The failure path (60_exceptions.md section 4) -/

/-- The kinds that move the session to `Faulted` (R307, R305). -/
def Status.faults : Status → Bool
  | .transportError | .protocolNack | .protocolTimeout | .bufferTooSmall => true
  | .ok | .unsupported | .malformedRecord | .unknownRecordType | .notReady | .badOperand => false
  | .entryUnset | .missingEof | .lineSourceError => false

/-- `fail(kind)` (R305): the ONE entry into failure. The kind is saved in `status`, a channel kind moves the
session to `Faulted`, and the engine goes back to `IDLE`. -/
def State.fail (s : State) (k : Status) : State :=
  { s with
    status := k
    session := if k.faults then .faulted else s.session
    phase := .idle
    busy := false }

/-- `done()` (R306): the ordinary end of an operation. -/
def State.done (s : State) : State :=
  { s with status := .ok, phase := .idle, busy := false }

/-- A stage that returns `Err(kind)` ends its operation with `fail(kind)` (40_framing.md R149). In an `UPLOAD` a stage
runs only inside the dispatch of a record, which ends with it, so `rec_valid` is cleared (10_state.md R33; log 13). -/
def State.stageFails (s : State) (k : Status) : State :=
  { s with recValid := if s.op = Op.upload then false else s.recValid }.fail k

/-! ### The channel primitives (40_framing.md section 1) -/

/-- The answer of the channel to the next `Tx`: the script's, then a free value (R143). -/
def State.nextTxReply (s : State) : TxReply :=
  match s.env.txReplies with
  | [] => Config.freeTxReply s.freeCtr
  | r :: _ => r

/-- The state after the channel has answered a `Tx`. -/
def State.afterTxReply (s : State) : State :=
  match s.env.txReplies with
  | [] => { s with freeCtr := s.freeCtr + 1 }
  | _ :: rest => { s with env.txReplies := rest }

/-- `Tx(frame, T_TX)` (R141): the frame stands in `tx_buf` and is handed to the channel in one call (R150). The
outcome is `s.nextTxReply`. -/
def State.tx (s : State) (frame : List Byte) : State :=
  { s.afterTxReply with
    txBuf := frame
    env.trace := s.env.trace ++ [.tx frame s.cfg.tTx s.nextTxReply] }

/-- A free receive of `n` bytes (R143): any of the three outcomes, any bytes. -/
def freeRxReply (k n : Nat) : RxReply :=
  match Config.freeRxKind k with
  | .ok => .ok ((List.range n).map (Config.freeRxByte k))
  | .timeout => .timeout
  | .error => .error

/-- The outcome of `Rx(n, t)` when the channel does `e` (R142): bytes that suffice are delivered, fewer than
`n` are a timeout. -/
def RxEvent.reply (n : Nat) : RxEvent → RxReply
  | .bytes b => if b.length < n then .timeout else .ok (b.take n)
  | .timeout => .timeout
  | .error => .error

/-- What of `e` is left for the next receive (R142): the bytes behind the `n` delivered; the bytes of a failed
receive are consumed and discarded. -/
def RxEvent.left (n : Nat) : RxEvent → List RxEvent
  | .bytes b => if n < b.length then [.bytes (b.drop n)] else []
  | .timeout => []
  | .error => []

/-- The answer of the channel to the next `Rx(n, t)`: the script's, then a free value (R143). -/
def State.nextRxReply (s : State) (n : Nat) : RxReply :=
  match s.env.rxEvents with
  | [] => freeRxReply s.freeCtr n
  | e :: _ => e.reply n

/-- The state after the channel has answered an `Rx` of `n` bytes. -/
def State.afterRxReply (s : State) (n : Nat) : State :=
  match s.env.rxEvents with
  | [] => { s with freeCtr := s.freeCtr + 1 }
  | e :: rest => { s with env.rxEvents := e.left n ++ rest }

/-- `Rx(n, t)` (R142). The outcome is `s.nextRxReply n`. -/
def State.rx (s : State) (n t : Nat) : State :=
  { s.afterRxReply n with
    env.trace := s.env.trace ++ [.rx n t (s.nextRxReply n)] }

/-- A receive whose failure ends the operation (R142, R144): `timeout` is ProtocolTimeout, `error` is
TransportError, and `ok` goes on with the bytes. -/
def State.receive (s : State) (n t : Nat) (got : List Byte → State → Fetch) : Fetch :=
  match s.nextRxReply n with
  | .ok b => got b (s.rx n t)
  | .timeout => .internal ((s.rx n t).stageFails .protocolTimeout)
  | .error => .internal ((s.rx n t).stageFails .transportError)

/-! ### The sending half of a stage (R146) -/

/-- The phase once the frame of the phase has been sent: its acknowledge is awaited. -/
def Phase.sent : Phase → Phase
  | .hsSyncTx => .hsSyncAck
  | .getCmd _ => .getCmd .await
  | .rdCmd _ => .rdCmd .await
  | .rdAddr _ => .rdAddr .await
  | .rdLen _ => .rdLen .await
  | .wrCmd _ => .wrCmd .await
  | .wrAddr _ => .wrAddr .await
  | .wrPay _ => .wrPay .await
  | .erCmd _ => .erCmd .await
  | .erPay _ => .erPay .await
  | .goCmd _ => .goCmd .await
  | .goAddr _ => .goAddr .await
  | .idle => .idle
  | .hsDrain => .hsDrain
  | .hsSyncAck => .hsSyncAck
  | .getLen => .getLen
  | .getList n => .getList n
  | .hsCommit => .hsCommit
  | .rdData => .rdData
  | .upNext => .upNext
  | .upStrip => .upStrip
  | .upParse => .upParse
  | .upDispatch => .upDispatch

/-- The first half of `Exchange(frame, t)` (R146): one `Tx`; an error is TransportError, and no receive is
attempted. -/
def State.sendFrame (s : State) (frame : List Byte) : State :=
  match s.nextTxReply with
  | .ok => { s.tx frame with phase := s.phase.sent }
  | .error => (s.tx frame).stageFails .transportError

/-! ### The command port (10_state.md R21, R22) -/

/-- Acceptance of the request for operation `o` (R21): only when `busy = 0`; otherwise the port does nothing
(R21, U30). -/
def State.accept (s : State) (o : Op) (run : State → State) : State :=
  if s.busy then s else run { s with op := o, busy := true }

/-- The operands of a request are copied, and `UPLOAD`'s line source is attached (R21, R32, R353). -/
def State.latch (s : State) (r : Request) (rest : List Request) : State :=
  { s with
    args := r.args
    env.host := rest
    env.lines := if opOfCode r.op = .upload then r.lines else s.env.lines }

/-- The code of an error kind (R301). -/
def Status.code : Status → BitVec 4
  | .ok => 0
  | .transportError => 1
  | .protocolNack => 2
  | .protocolTimeout => 3
  | .unsupported => 4
  | .bufferTooSmall => 5
  | .malformedRecord => 6
  | .unknownRecordType => 7
  | .notReady => 8
  | .badOperand => 9
  | .entryUnset => 10
  | .missingEof => 11
  | .lineSourceError => 12

/-- The code of a session state (R23). -/
def Session.code : Session → BitVec 2
  | .uninitialized => 0
  | .ready => 1
  | .faulted => 2
  | .relinquished => 3

/-- The last operation was an `UPLOAD` and it failed: the host may read `line_len` (R38; log 19). -/
def State.uploadFailed (s : State) : Bool := s.op = .upload ∧ s.status ≠ .ok

/-- What the host reads (R22, R356, R38): nothing while `busy = 1`; `entry_address` only when `entry_valid = 1`;
`line` whenever `busy = 0`, `line_len` only after a failed `UPLOAD` (log 19). -/
def State.hostView (s : State) : Option HostView :=
  if s.busy then none
  else some
    { status := s.status.code
      session := s.session.code
      cmdSet := s.cmdSet
      cmdCount := s.cmdCount
      baseAddress := s.baseAddress
      entryValid := s.entryValid
      entryAddress := s.entry
      getBuf := s.getBuf
      getCount := s.getCount
      rdBuf := s.rdBuf
      rdCount := s.rdCount
      lineIndex := s.lineIndex
      line := s.line
      lineLen := if s.uploadFailed then some s.lineLen else none }

/-! ### Reset (70_reset_and_hazards.md R350, R351) -/

/-- Reset: every piece of state of the block takes its reset value; the parameters, the environment and the
counter of free values are not state of the block and stay (log 17). -/
def State.resetNow (s : State) : State :=
  { State.reset with cfg := s.cfg, env := s.env, freeCtr := s.freeCtr }

end Sys2Proof.Machine
end

