-- ==== Sys2Proof/Machine/Flags.lean ====
section
/-! DEFINITION. The conditions the engine tests: the capability gate (41_session.md R179), admission with its
order of checks (R181, 60_exceptions.md R303), and the error kind of a line that does not parse. -/

namespace Sys2Proof.Machine

/-- `InSet(x)` (R179): over opcode bytes only; the version byte is not in `cmd_set` (R178). -/
def State.inSet (s : State) (x : Byte) : Bool := s.cmdSet.contains x

/-- The gate, then the session state, then the operand check (R181, R303). `none` is "admitted". -/
def State.gated (s : State) (opcode : Byte) (operands : Option Status) : Option Status :=
  if !s.inSet opcode then some .unsupported
  else if s.session ≠ .ready then some .notReady
  else operands

/-- The session-state check of the ungated operations (R181). -/
def State.readyCheck (s : State) : Option Status :=
  if s.session ≠ .ready then some .notReady else none

/-- BadOperand unless the count lies in 1 .. `max` (R201, R202, R203). -/
def rangeCheck (count max : Nat) : Option Status :=
  if count < 1 ∨ max < count then some .badOperand else none

/-- `Admit(op)` (R181) with each operation's operand check: the kind it is refused with, or none. -/
def State.refusal (s : State) : Op → Option Status
  | .handshake => none
  | .get => s.readyCheck
  | .upload => s.readyCheck
  | .read => s.gated s.cfg.opRead (rangeCheck s.args.len Config.readMax)
  | .write => s.gated s.cfg.opWrite (rangeCheck s.args.len s.cfg.frameMax)
  | .erase => s.gated s.cfg.opErase (rangeCheck s.args.npages Config.eraseMaxPages)
  | .go => s.gated Config.opGo none
  | .goEntry => s.gated Config.opGo (if s.entry.isSome then none else some .entryUnset)

/-- A request: acceptance (R21), admission (R181), and then the operation's first actions. A refusal is
`fail(kind)` and nothing else (R200). -/
def State.request (s : State) (o : Op) (start : State → State) : State :=
  s.accept o fun s =>
    match s.refusal o with
    | some k => s.fail k
    | none => start s

/-- The error kind of a line that does not parse (43_hex_parser.md R240; R301). -/
def parseStatus : Reject → Status
  | .unknownType => .unknownRecordType
  | _ => .malformedRecord

end Sys2Proof.Machine
end

