-- ==== Sys2Proof/Machine/Operands.lean ====
section
/-! DEFINITION. The operands of the frames the engine sends: where their bytes come from in each phase, the address
formation of 20_memory.md R75, the chunks of 44_image_sequencer.md R273, and the timeouts of 40_framing.md R151. -/

namespace Sys2Proof.Machine

/-- `arg_data[0 .. L-1]` (R32, R202). -/
def Operands.bytes (a : Operands) : List Byte := a.data.toList.take a.len

/-- `arg_pages[0 .. N-1]` (R32, R203). -/
def Operands.pageList (a : Operands) : List Half16 := a.pages.toList.take a.npages

/-- `(base_address + zext_32(rec_addr) + off) mod 2^32` (R75). -/
def recordAddress (base : Addr) (a : Half16) (off : Nat) : Addr :=
  base + a.setWidth 32 + BitVec.ofNat 32 off

/-- The chunk at `off`: at most `CHUNK` bytes, from the front (R273). -/
def State.chunkBytes (s : State) : List Byte := (s.record.data.drop s.chunkOff).take s.cfg.chunk

/-- The address and the bytes `WriteBody` is run on: the operand registers for `WRITE` (R202), the chunk of the
current record for `UPLOAD` (R273, R274). -/
def State.writeOperands (s : State) : Addr × List Byte :=
  if s.op = .upload then (recordAddress s.baseAddress s.record.addr s.chunkOff, s.chunkBytes)
  else (s.args.addr, s.args.bytes)

/-- The address `GoBody` is run on: `arg_addr` for `GO` (R204), `entry_address` for `GO_ENTRY` (R205). -/
def State.goOperand (s : State) : Option Addr :=
  if s.op = .goEntry then s.entry else some s.args.addr

/-- The timeout of the acknowledge receive in each phase (R151). -/
def State.ackTimeout (s : State) : Nat :=
  match s.phase with
  | .hsSyncAck => s.cfg.tSync
  | .wrPay _ => s.cfg.tWriteAck
  | .erPay _ => s.cfg.tEraseAck
  | _ => s.cfg.tAck

/-- The phases in which `AckCheck` waits for a response byte (R144). -/
def Phase.awaitsAck : Phase → Bool
  | .hsSyncAck => true
  | .getCmd .await | .rdCmd .await | .rdAddr .await | .rdLen .await => true
  | .wrCmd .await | .wrAddr .await | .wrPay .await => true
  | .erCmd .await | .erPay .await | .goCmd .await | .goAddr .await => true
  | _ => false

end Sys2Proof.Machine
end

