-- ==== Sys2Proof/Machine/Frames.lean ====
section
/-! DEFINITION. The frames the engine sends (30_encoding.md R90): each is the one `Tx` call of its bytes
(40_framing.md R141, R150), the first half of `Exchange` (R146). -/

namespace Sys2Proof.Machine

/-- `SYNC` (R91, R174). -/
def execSync (s : State) : Result := .next (s.sendFrame (encode s.cfg .sync))

/-- `CMD_GET` (R93, R145, R176). -/
def execCmdGet (s : State) : Result := .next (s.sendFrame (encode s.cfg .cmdGet))

/-- `CMD_READ` (R93, R145, R201). -/
def execCmdRead (s : State) : Result := .next (s.sendFrame (encode s.cfg .cmdRead))

/-- `CMD_WRITE` (R93, R145, R202). -/
def execCmdWrite (s : State) : Result := .next (s.sendFrame (encode s.cfg .cmdWrite))

/-- `CMD_ERASE` (R93, R145, R203). -/
def execCmdErase (s : State) : Result := .next (s.sendFrame (encode s.cfg .cmdErase))

/-- `CMD_GO` (R93, R145, R204). -/
def execCmdGo (s : State) : Result := .next (s.sendFrame (encode s.cfg .cmdGo))

/-- `ADDR` (R97, R147). -/
def execAddr (a : Addr) (s : State) : Result := .next (s.sendFrame (encode s.cfg (.addr a)))

/-- `LEN` (R98, R201). -/
def execLen (n : Byte) (s : State) : Result := .next (s.sendFrame (encode s.cfg (.len n)))

/-- `PAY` (R100, R148). -/
def execPay (d : List Byte) (s : State) : Result := .next (s.sendFrame (encode s.cfg (.pay d)))

/-- `ERASEPAY` (R103, R203). -/
def execErasePay (ps : List Half16) (s : State) : Result :=
  .next (s.sendFrame (encode s.cfg (.erasePay ps)))

end Sys2Proof.Machine
end

