-- ==== Sys2Proof/Machine/Memory.lean ====
section
/-! DEFINITION. 42_memory_commands.md: `READ`, `WRITE` and `ERASE` as requests (R200 to R203). -/

namespace Sys2Proof.Machine

/-- `READ` (R201): once admitted, `rd_count <- 0`, then the Read Memory command. -/
def execRead (s : State) : Result :=
  .next (s.request .read fun s => { s with rdBuf := [], phase := .rdCmd .send })

/-- `WRITE` (R202). -/
def execWrite (s : State) : Result :=
  .next (s.request .write fun s => { s with phase := .wrCmd .send })

/-- `ERASE` (R203); no count is special (R206). -/
def execErase (s : State) : Result :=
  .next (s.request .erase fun s => { s with phase := .erCmd .send })

end Sys2Proof.Machine
end

