-- ==== Sys2Proof/Machine/Image.lean ====
section
/-! DEFINITION. 44_image_sequencer.md: `UPLOAD`, its internal actions, and the four record types as dispatched. -/

namespace Sys2Proof.Machine

/-- `UPLOAD` (R271): admitted in `Ready`, `line_index <- 0`. -/
def execUpload (s : State) : Result :=
  .next (s.request .upload fun s => { s with lineIndex := 0, phase := .upNext })

/-- `UP_NEXT` (R270, R271, R279): the next line, or the end of the upload with `line_len <- 0`. -/
def State.nextLine (s : State) : State :=
  match s.env.lines with
  | [] => { s with line := [] }.fail .missingEof
  | .error :: rest => { s with line := [], env.lines := rest }.fail .lineSourceError
  | .line chars :: rest => { s with line := chars, env.lines := rest, phase := .upStrip }

/-- `Strip(chars)` (R272): every trailing CR (0x0D) and LF (0x0A) goes, and nothing else. -/
def strip (chars : List Byte) : List Byte :=
  (chars.reverse.dropWhile fun c => c == 0x0D || c == 0x0A).reverse

/-- `UP_STRIP` (R271, R272). -/
def State.stripLine (s : State) : State := { s with line := strip s.line, phase := .upParse }

/-- The record registers after a parse that failed: unspecified (10_state.md R33, 43_hex_parser.md R248), so free
values (log 26). -/
def freeRecord (k : Nat) : Record where
  addr := Config.freeRecAddr k
  type := Config.freeRecType k
  data := (List.range (Config.freeRecCount k).toNat).map (Config.freeRecByte k)
  cksum := Config.freeRecCksum k

/-- `UP_PARSE` (R271, 43_hex_parser.md R240, R248): the record registers are written, or `rec_valid` is 0, the
others are unspecified, and the upload fails. -/
def State.parseLine (s : State) : State :=
  match parse s.line with
  | .ok r => { s with recValid := true, record := r, phase := .upDispatch }
  | .err e =>
    { s with
      recValid := false
      record := freeRecord s.freeCtr
      freeCtr := s.freeCtr + 1 }.fail (parseStatus e)

/-- The end of a dispatch (R271): `rec_valid <- 0`, `line_index <- line_index + 1`, next line. -/
def State.endDispatch (s : State) : State :=
  { s with recValid := false, lineIndex := s.lineIndex + 1, phase := .upNext }

/-- The loop test of `DispatchData` (R273), and the gate and state check of `WriteBody` (R274), whose operand
check cannot fail. A refusal ends the dispatch, so `rec_valid` is cleared (10_state.md R33; log 13). -/
def State.nextChunk (s : State) : State :=
  if s.chunkOff < s.record.count then
    match s.gated s.cfg.opWrite none with
    | some k => { s with recValid := false }.fail k
    | none => { s with phase := .wrCmd .send }
  else s.endDispatch

/-- `REC_DATA` (R273): the record in the record registers is written to the target chunk by chunk, from offset 0.
The record registers already hold it when the step dispatches; the meaning latches its operands (log 25). -/
def execRecData (a : Half16) (d : List Byte) (s : State) : Result :=
  .next { s with recValid := true, record := Record.make a 0x00 d, chunkOff := 0 }.nextChunk

/-- `REC_EOF` (R275, R271): the upload ends OK; no field of the record is used (R251). -/
def execRecEof (_a : Half16) (_d : List Byte) (s : State) : Result :=
  .next { s with recValid := false }.done

/-- `REC_ELA` (R276, R109): `base_address` is replaced; the address field is not used (R247). -/
def execRecEla (_a : Half16) (d0 d1 : Byte) (s : State) : Result :=
  .next { s with baseAddress := elaBase d0 d1 }.endDispatch

/-- `REC_SLA` (R277, R109): `entry_address` and `entry_valid`; the address field is not used (R247). -/
def execRecSla (_a : Half16) (d0 d1 d2 d3 : Byte) (s : State) : Result :=
  .next { s with entry := some (addrOf d0 d1 d2 d3) }.endDispatch

/-- The final ACK of a payload (R202, R273, R274): `WRITE` is done; `UPLOAD` advances by the bytes sent. -/
def State.writeDone (s : State) : State :=
  if s.op = .upload then
    { s with chunkOff := s.chunkOff + s.chunkBytes.length }.nextChunk
  else s.done

end Sys2Proof.Machine
end

