-- ==== Sys2Proof/Machine/Jump.lean ====
section
/-! DEFINITION. 42_memory_commands.md: `GO` and `GO_ENTRY` as requests (R204, R205). -/

namespace Sys2Proof.Machine

/-- `GO` (R204). -/
def execGo (s : State) : Result :=
  .next (s.request .go fun s => { s with phase := .goCmd .send })

/-- `GO_ENTRY` (R205): refused with EntryUnset while `entry_valid = 0` (State.refusal). -/
def execGoEntry (s : State) : Result :=
  .next (s.request .goEntry fun s => { s with phase := .goCmd .send })

/-- The end of `GoBody` (R204): the target is believed to have left its bootloader. -/
def State.relinquish (s : State) : State := { s with session := .relinquished }.done

end Sys2Proof.Machine
end

