-- ==== Sys2Proof/Machine/Session.lean ====
section
/-! DEFINITION. 41_session.md: `HANDSHAKE` and `GET` as requests, the drain, the Get length byte, `HS_COMMIT`. -/

namespace Sys2Proof.Machine

/-- The start of `GetBody` (R176): `get_count <- 0`, then the Get command. -/
def State.beginGet (s : State) : State :=
  { s with getBuf := [], phase := .getCmd .send }

/-- `HANDSHAKE` (R172): admitted in every state; a new session starts (R171 row 1), then the drain. -/
def execHandshake (s : State) : Result :=
  .next (s.request .handshake fun s =>
    { s with
      session := .uninitialized
      cmdSet := []
      baseAddress := 0x00000000
      entry := none
      phase := .hsDrain })

/-- `GET` (R180): admitted in `Ready`, not gated; then `GetBody`. -/
def execGet (s : State) : Result := .next (s.request .get State.beginGet)

/-- One turn of `Drain` (R173): a byte is discarded and the drain goes on; a timeout or an error ends it. -/
def State.drainOnce (s : State) : State :=
  match s.nextRxReply 1 with
  | .ok _ => s.rx 1 s.cfg.tDrain
  | .timeout => { s.rx 1 s.cfg.tDrain with phase := .hsSyncTx }
  | .error => { s.rx 1 s.cfg.tDrain with phase := .hsSyncTx }

/-- The capacity test of Get on the length byte `n` (R177). -/
def State.getLengthByte (s : State) (n : Byte) : State :=
  if s.cfg.getBufCap < n.toNat + 1 then s.stageFails .bufferTooSmall
  else { s with phase := .getList n }

/-- `HS_COMMIT` (R172, R178): the opcodes behind the version byte become the Supported-Command Set. -/
def State.commit (s : State) : State :=
  { s with cmdSet := s.getBuf.tail, session := .ready }.done

end Sys2Proof.Machine
end

