-- ==== Sys2Proof/Machine/Responses.lean ====
section
/-! DEFINITION. What the engine receives: the acknowledge byte of a stage (40_framing.md R144), the Get response
(41_session.md R176), the data of a read (42_memory_commands.md R201). A byte that comes when no receive waits is no
event (60_exceptions.md R304), so each meaning leaves the state alone in the other phases (log 14). -/

namespace Sys2Proof.Machine

/-- The next phase once the frame of a stage is acknowledged: the order of the stages in R172, R176, R201 to R205. -/
def State.acknowledged (s : State) : State :=
  match s.phase with
  | .hsSyncAck => s.beginGet
  | .getCmd .await => { s with phase := .getLen }
  | .rdCmd .await => { s with phase := .rdAddr .send }
  | .rdAddr .await => { s with phase := .rdLen .send }
  | .rdLen .await => { s with phase := .rdData }
  | .wrCmd .await => { s with phase := .wrAddr .send }
  | .wrAddr .await => { s with phase := .wrPay .send }
  | .wrPay .await => s.writeDone
  | .erCmd .await => { s with phase := .erPay .send }
  | .erPay .await => s.done
  | .goCmd .await => { s with phase := .goAddr .send }
  | .goAddr .await => s.relinquish
  | _ => s

/-- `ACK` (R144): the stage succeeds. -/
def execAck (s : State) : Result := .next s.acknowledged

/-- An acknowledge byte that is not 0x79 (R144): the operation fails with ProtocolNack. -/
def State.notAcknowledged (s : State) : State :=
  if s.phase.awaitsAck then s.stageFails .protocolNack else s

/-- `NACK` (R144). -/
def execNack (s : State) : Result := .next s.notAcknowledged

/-- `RSP_OTHER` (R144): the same kind, whatever the byte. -/
def execRspOther (_r : Byte) (s : State) : Result := .next s.notAcknowledged

/-- The end of Get (R176): `HANDSHAKE` goes on to `HS_COMMIT` (R172), `GET` is done (R180). -/
def State.getDone (s : State) : State :=
  if s.op = .handshake then { s with phase := .hsCommit } else s.done

/-- `GETRSP` (R102, R176): version byte and opcodes into `get_buf`, under the capacity test of R177. -/
def execGetRsp (v : Byte) (ops : List Byte) (s : State) : Result :=
  .next (match s.phase with
    | .getList _ =>
      if s.cfg.getBufCap < ops.length + 1 then s.stageFails .bufferTooSmall
      else { s with getBuf := v :: ops }.getDone
    | _ => s)

/-- `RDDATA` (R104, R201): the bytes into `rd_buf`, in the order received. -/
def execRdData (d : List Byte) (s : State) : Result :=
  .next (match s.phase with
    | .rdData => { s with rdBuf := d }.done
    | _ => s)

end Sys2Proof.Machine
end

