-- ==== Sys2Proof/Machine/Dispatch.lean ====
section
/-! DEFINITION. Which meaning each instruction has: one arm per constructor of Instr. -/

namespace Sys2Proof.Machine

def exec (i : Instr) (s : State) : Host.Outcome State Fault Refusal :=
  match i with
  -- requests
  | .handshake => Sys2Proof.Machine.execHandshake s
  | .get => Sys2Proof.Machine.execGet s
  | .read => Sys2Proof.Machine.execRead s
  | .write => Sys2Proof.Machine.execWrite s
  | .erase => Sys2Proof.Machine.execErase s
  | .go => Sys2Proof.Machine.execGo s
  | .goEntry => Sys2Proof.Machine.execGoEntry s
  | .upload => Sys2Proof.Machine.execUpload s
  -- sent frames
  | .sync => Sys2Proof.Machine.execSync s
  | .cmdGet => Sys2Proof.Machine.execCmdGet s
  | .cmdRead => Sys2Proof.Machine.execCmdRead s
  | .cmdWrite => Sys2Proof.Machine.execCmdWrite s
  | .cmdErase => Sys2Proof.Machine.execCmdErase s
  | .cmdGo => Sys2Proof.Machine.execCmdGo s
  | .addr a => Sys2Proof.Machine.execAddr a s
  | .len n => Sys2Proof.Machine.execLen n s
  | .pay d => Sys2Proof.Machine.execPay d s
  | .erasePay ps => Sys2Proof.Machine.execErasePay ps s
  -- received forms
  | .ack => Sys2Proof.Machine.execAck s
  | .nack => Sys2Proof.Machine.execNack s
  | .rspOther r => Sys2Proof.Machine.execRspOther r s
  | .getRsp v ops => Sys2Proof.Machine.execGetRsp v ops s
  | .rdData d => Sys2Proof.Machine.execRdData d s
  -- records
  | .recData a d => Sys2Proof.Machine.execRecData a d s
  | .recEof a d => Sys2Proof.Machine.execRecEof a d s
  | .recEla a d0 d1 => Sys2Proof.Machine.execRecEla a d0 d1 s
  | .recSla a d0 d1 d2 d3 => Sys2Proof.Machine.execRecSla a d0 d1 d2 d3 s

end Sys2Proof.Machine
end

