-- ==== Sys2Proof/Machine/Sequencer.lean ====
section
/-! DEFINITION. The fetch of a step: what the phase of the engine does next, as files 41 to 44 order it. A step is one
channel call, one line fetch or one internal action (92_eei_decisions.md D1). Also where a table word is placed. -/

namespace Sys2Proof.Machine

/-- `IDLE` (R21, R40): the next request of the host, if there is one; its operands are copied and its op select
code is decoded. Without a request the engine waits (R313; log 16). -/
def State.fetchRequest (s : State) : Fetch :=
  if s.busy then .internal s
  else
    match s.env.host with
    | [] => .internal s
    | r :: rest => .run (decodeOp r.op) (s.latch r rest)

/-- `AckCheck(t)` (R144): one receive of one byte, which is then decoded. -/
def State.fetchResponse (s : State) : Fetch :=
  s.receive 1 s.ackTimeout fun b s => .run (decodeResponse (b.headD 0)) s

/-- `GET_LEN` (R176): one receive of one byte. -/
def State.fetchGetLength (s : State) : Fetch :=
  s.receive 1 s.cfg.tData fun b s => .internal (s.getLengthByte (b.headD 0))

/-- `GET_LIST` (R176): one receive of `n + 1` bytes. -/
def State.fetchGetList (s : State) (n : Byte) : Fetch :=
  s.receive (n.toNat + 1) s.cfg.tData fun b s => .run (.getRsp (b.headD 0) b.tail) s

/-- `RD_DATA` (R201): one receive of `L` bytes. -/
def State.fetchReadData (s : State) : Fetch :=
  s.receive s.args.len s.cfg.tData fun b s => .run (.rdData b) s

/-- `GO_ADDR` (R204, R205). -/
def State.fetchGoAddr (s : State) : Fetch :=
  match s.goOperand with
  | some a => .run (.addr a) s
  | none => .stop .unsetEntry

/-- `UP_DISPATCH` (R271): the record in the record registers, which `rec_valid` says are meaningful (R33, R38). -/
def State.fetchRecord (s : State) : Fetch :=
  if s.recValid then
    match s.record.toInstr with
    | some i => .run i s
    | none => .stop .deadRecord
  else .stop .deadRecord

/-- What the engine does in the phase it is in. -/
def State.fetch (s : State) : Fetch :=
  match s.phase with
  | .idle => s.fetchRequest
  | .hsDrain => .internal s.drainOnce
  | .hsSyncTx => .run .sync s
  | .hsSyncAck => s.fetchResponse
  | .getCmd .send => .run .cmdGet s
  | .getCmd .await => s.fetchResponse
  | .getLen => s.fetchGetLength
  | .getList n => s.fetchGetList n
  | .hsCommit => .internal s.commit
  | .rdCmd .send => .run .cmdRead s
  | .rdCmd .await => s.fetchResponse
  | .rdAddr .send => .run (.addr s.args.addr) s
  | .rdAddr .await => s.fetchResponse
  | .rdLen .send => .run (.len (countByte s.args.len)) s
  | .rdLen .await => s.fetchResponse
  | .rdData => s.fetchReadData
  | .wrCmd .send => .run .cmdWrite s
  | .wrCmd .await => s.fetchResponse
  | .wrAddr .send => .run (.addr s.writeOperands.1) s
  | .wrAddr .await => s.fetchResponse
  | .wrPay .send => .run (.pay s.writeOperands.2) s
  | .wrPay .await => s.fetchResponse
  | .erCmd .send => .run .cmdErase s
  | .erCmd .await => s.fetchResponse
  | .erPay .send => .run (.erasePay s.args.pageList) s
  | .erPay .await => s.fetchResponse
  | .goCmd .send => .run .cmdGo s
  | .goCmd .await => s.fetchResponse
  | .goAddr .send => s.fetchGoAddr
  | .goAddr .await => s.fetchResponse
  | .upNext => .internal s.nextLine
  | .upStrip => .internal s.stripLine
  | .upParse => .internal s.parseLine
  | .upDispatch => s.fetchRecord

/-! ### Placing an instruction for the next step (log 16) -/

/-- The first `n` entries of `xs`, and where `xs` has fewer, the entries of the register array `v` behind them. -/
def fillFront {α : Type} {n : Nat} (v : Vector α n) (xs : List α) : Vector α n :=
  ⟨((xs ++ v.toList.drop xs.length).take n).toArray, by simp; omega⟩

/-- The engine inside operation `o` at phase `p`. -/
def State.inside (s : State) (o : Op) (p : Phase) : State :=
  { s with op := o, busy := true, phase := p }

/-- The channel about to deliver `b` (a receive) and to accept a frame (a transmit). -/
def State.delivering (s : State) (b : List Byte) : State :=
  { s with env.rxEvents := .bytes b :: s.env.rxEvents }

/-- The channel about to accept a frame. -/
def State.accepting (s : State) : State :=
  { s with env.txReplies := .ok :: s.env.txReplies }

/-- The engine idle and the host about to request `o` with the operands the registers hold. -/
def State.requesting (s : State) (o : Op) : State :=
  { s with
    busy := false
    phase := .idle
    env.host := ⟨o.code, s.args, s.env.lines⟩ :: s.env.host }

/-- The engine about to dispatch record `r`. -/
def State.dispatching (s : State) (r : Record) : State :=
  { s.inside .upload .upDispatch with recValid := true, record := r }

/-- `s` with instruction `i` placed where the next step finds it: as the next request, as the frame the phase
sends, as the bytes the channel delivers, or as the record to dispatch. The reset input is released for that step. -/
def State.place (i : Instr) (s0 : State) : State :=
  let s := { s0 with env.resetLine := false :: s0.env.resetLine }
  match i with
  | .handshake => s.requesting .handshake
  | .get => s.requesting .get
  | .read => s.requesting .read
  | .write => s.requesting .write
  | .erase => s.requesting .erase
  | .go => s.requesting .go
  | .goEntry => s.requesting .goEntry
  | .upload => s.requesting .upload
  | .sync => (s.inside .handshake .hsSyncTx).accepting
  | .cmdGet => (s.inside .get (.getCmd .send)).accepting
  | .cmdRead => (s.inside .read (.rdCmd .send)).accepting
  | .cmdWrite => (s.inside .write (.wrCmd .send)).accepting
  | .cmdErase => (s.inside .erase (.erCmd .send)).accepting
  | .cmdGo => (s.inside .go (.goCmd .send)).accepting
  | .addr a => { s.inside .go (.goAddr .send) with args.addr := a }.accepting
  | .len n => { s.inside .read (.rdLen .send) with args.len := n.toNat + 1 }.accepting
  | .pay d =>
    { s.inside .write (.wrPay .send) with
      args.len := d.length, args.data := fillFront s.args.data d }.accepting
  | .erasePay ps =>
    { s.inside .erase (.erPay .send) with
      args.npages := ps.length, args.pages := fillFront s.args.pages ps }.accepting
  | .ack => (s.inside .handshake .hsSyncAck).delivering [Config.ack]
  | .nack => (s.inside .handshake .hsSyncAck).delivering [Config.nack]
  | .rspOther r => (s.inside .handshake .hsSyncAck).delivering [r]
  | .getRsp v ops => (s.inside .get (.getList (BitVec.ofNat 8 ops.length))).delivering (v :: ops)
  | .rdData d => { s.inside .read .rdData with args.len := d.length }.delivering d
  | .recData a d => s.dispatching (Record.make a 0x00 d)
  | .recEof a d => s.dispatching (Record.make a 0x01 d)
  | .recEla a d0 d1 => s.dispatching (Record.make a 0x04 [d0, d1])
  | .recSla a d0 d1 d2 d3 => s.dispatching (Record.make a 0x05 [d0, d1, d2, d3])

end Sys2Proof.Machine
end

