-- ==== Sys2Proof/Machine/Step.lean ====
section
/-! DEFINITION. One step of the machine. -/

namespace Sys2Proof.Machine

/-- What the engine does when reset is not asserted: the instruction its phase fetches, or an internal action. -/
def engineStep (s : State) : Host.Outcome State Fault Refusal :=
  match s.fetch with
  | .run i t => exec i t
  | .internal t => .next t
  | .stop f => .fault f

/-- One step: the level of the reset input is read first (R351: a reset lands between two steps, also inside an
operation, and makes no channel call). -/
def step (s : State) : Host.Outcome State Fault Refusal :=
  match s.env.resetLine with
  | [] => engineStep s
  | asserted :: rest =>
    let t := { s with env.resetLine := rest }
    if asserted then .next t.resetNow else engineStep t

/-- `s` with the table word's instruction placed for the next step; `s` itself when the word is none. -/
def State.withFetchWord (s : State) (nbits w : Nat) : State :=
  match decodeTableWord nbits w with
  | some i => s.place i
  | none => s

end Sys2Proof.Machine
end

