-- ==== Sys2Proof/Safety.lean ====
section
/-! DEFINITION. What a run keeps: the invariant `EngineInv`, the discipline that a frame follows an acknowledgement, the
kinds each operation may end in, and what an image asks of the target. Claims are stated in these terms. -/

namespace Sys2Proof.Machine

/-- A record as a successful parse leaves it in the record registers (43_hex_parser.md R245 to R248). -/
structure Genuine (r : Record) : Prop where
  count : r.count ≤ Config.recDataMax
  cksum : r.cksum = cksHex (recordBytes r.addr r.type r.data)
  type : r.type = 0x00 ∨ r.type = 0x01 ∨ r.type = 0x04 ∨ r.type = 0x05
  ela : r.type = 0x04 → r.count = 2
  sla : r.type = 0x05 → r.count = 4

/-- The write in progress has its operands: those of an admitted `WRITE` (R202), or a chunk that is not empty of a
`DATA` record of an `UPLOAD` (R273), and the gate was passed (R179). -/
def WriteReady (s : State) : Prop :=
  s.cfg.opWrite ∈ s.cmdSet ∧
  ((s.op = .write ∧ 1 ≤ s.args.len ∧ s.args.len ≤ s.cfg.frameMax) ∨
   (s.op = .upload ∧ s.recValid = true ∧ s.record.type = 0x00 ∧ s.chunkOff < s.record.count))

/-- What holds in each phase: the operation it belongs to, and what admission has checked (R181, R200). -/
def PhaseOk (s : State) : Prop :=
  match s.phase with
  | .idle => True
  | .hsDrain | .hsSyncTx | .hsSyncAck => s.op = .handshake
  | .getCmd _ | .getLen => s.op = .handshake ∨ s.op = .get
  | .getList n => (s.op = .handshake ∨ s.op = .get) ∧ n.toNat + 1 ≤ s.cfg.getBufCap
  | .hsCommit => s.op = .handshake ∧ s.getBuf ≠ []
  | .rdCmd _ | .rdAddr _ | .rdLen _ | .rdData =>
    s.op = .read ∧ s.cfg.opRead ∈ s.cmdSet ∧ 1 ≤ s.args.len ∧ s.args.len ≤ Config.readMax
  | .wrCmd _ | .wrAddr _ | .wrPay _ => WriteReady s
  | .erCmd _ | .erPay _ =>
    s.op = .erase ∧ s.cfg.opErase ∈ s.cmdSet ∧ 1 ≤ s.args.npages ∧ s.args.npages ≤ Config.eraseMaxPages
  | .goCmd _ | .goAddr _ =>
    Config.opGo ∈ s.cmdSet ∧ (s.op = .go ∨ (s.op = .goEntry ∧ s.entry ≠ none))
  | .upNext | .upStrip | .upParse => s.op = .upload
  | .upDispatch => s.op = .upload ∧ s.recValid = true

/-- The phases inside the dispatch of a record (44_image_sequencer.md R271, R273). -/
def Phase.dispatches : Phase → Bool
  | .upDispatch | .wrCmd _ | .wrAddr _ | .wrPay _ => true
  | _ => false

/-- The invariant of the machine. -/
structure EngineInv (s : State) : Prop where
  /-- The parameters obey R7. -/
  params : s.cfg.Valid
  /-- `phase` is `IDLE` exactly when `busy = 0` (R30, R31). -/
  busyPhase : s.busy = true ↔ s.phase ≠ .idle
  phaseOk : PhaseOk s
  /-- A `HANDSHAKE` runs in `Uninitialized`, everything else in `Ready` (R170, R171). -/
  handshakeSession : s.busy = true → s.op = .handshake → s.session = .uninitialized
  otherSession : s.busy = true → s.op ≠ .handshake → s.session = .ready
  /-- In `Uninitialized` the session registers are those of a new session (R171 row 1, R38). -/
  fresh : s.session = .uninitialized → s.cmdSet = [] ∧ s.baseAddress = 0 ∧ s.entry = none
  /-- The low 16 bits of `base_address` are zero (R25). -/
  base : s.baseAddress.extractLsb' 0 16 = 0
  /-- Every buffer fits (R24, R28, R29, R36). -/
  setFits : s.cmdCount ≤ s.cfg.cmdSetCap
  getFits : s.getCount ≤ s.cfg.getBufCap
  readFits : s.rdCount ≤ Config.readMax
  txFits : s.txBuf.length ≤ 258
  /-- The record registers hold a parsed record while `rec_valid = 1`, and that is only inside its dispatch (R33). -/
  record : s.recValid = true → Genuine s.record ∧ s.op = .upload ∧ s.phase.dispatches = true
  recordFits : s.record.count ≤ Config.recDataMax

/-- The phases that in every run send a frame after the first of an operation (20_memory.md R76): `SYNC` comes before
the Get command of a `HANDSHAKE`, and a later chunk after an earlier one. -/
def LaterFrame (s : State) : Prop :=
  match s.phase with
  | .getCmd .send => s.op = .handshake
  | .wrCmd .send => s.op = .upload ∧ 0 < s.chunkOff
  | .rdAddr .send | .rdLen .send | .wrAddr .send | .wrPay .send | .erPay .send | .goAddr .send => True
  | _ => False

/-- The last channel call was a receive of one byte that delivered 0x79. -/
def LastCallAcked (s : State) : Prop :=
  ∃ t, s.env.trace.getLast? = some (.rx 1 t (.ok [Config.ack]))

/-- The phases from which the next channel call is a transmit. -/
def Phase.beforeTransmit : Phase → Bool
  | .hsSyncTx | .upNext | .upStrip | .upParse | .upDispatch => true
  | .getCmd .send | .rdCmd .send | .rdAddr .send | .rdLen .send => true
  | .wrCmd .send | .wrAddr .send | .wrPay .send => true
  | .erCmd .send | .erPay .send | .goCmd .send | .goAddr .send => true
  | _ => false

/-- Behind the first `n` channel calls of the trace a frame has been sent. -/
def SentSince (n : Nat) (s : State) : Prop :=
  ∃ f t r, ChanCall.tx f t r ∈ s.env.trace.drop n

/-- The acknowledge discipline of R76 for an operation accepted when the trace had `n` calls: where a frame comes
next and one of the operation has been sent, the last call received an ACK. A drain sends nothing. -/
structure AckDiscipline (n : Nat) (s : State) : Prop where
  later : LaterFrame s → LastCallAcked s
  drain : s.phase = .hsDrain → ¬ SentSince n s
  next : s.phase.beforeTransmit = true → SentSince n s → LastCallAcked s

/-- The kinds each operation can end in: the table of 60_exceptions.md R302. -/
def endKinds : Op → List Status
  | .handshake => [.ok, .transportError, .protocolNack, .protocolTimeout, .bufferTooSmall]
  | .get => [.ok, .notReady, .transportError, .protocolNack, .protocolTimeout, .bufferTooSmall]
  | .read => [.ok, .unsupported, .notReady, .badOperand, .transportError, .protocolNack, .protocolTimeout]
  | .write => [.ok, .unsupported, .notReady, .badOperand, .transportError, .protocolNack, .protocolTimeout]
  | .erase => [.ok, .unsupported, .notReady, .badOperand, .transportError, .protocolNack, .protocolTimeout]
  | .go => [.ok, .unsupported, .notReady, .transportError, .protocolNack, .protocolTimeout]
  | .goEntry => [.ok, .unsupported, .notReady, .entryUnset, .transportError, .protocolNack, .protocolTimeout]
  | .upload =>
    [.ok, .notReady, .missingEof, .lineSourceError, .malformedRecord, .unknownRecordType, .unsupported,
      .transportError, .protocolNack, .protocolTimeout]

/-- The opcode an operation is gated by; none for the ungated ones (41_session.md R181). -/
def gateOpcode (cfg : Params) : Op → Option Byte
  | .read => some cfg.opRead
  | .write => some cfg.opWrite
  | .erase => some cfg.opErase
  | .go => some Config.opGo
  | .goEntry => some Config.opGo
  | .handshake => none
  | .get => none
  | .upload => none

/-- The operands a request is refused for with BadOperand (R201, R202, R203). -/
def OperandsOutOfRange (s : State) : Op → Prop
  | .read => s.args.len < 1 ∨ 256 < s.args.len
  | .write => s.args.len < 1 ∨ s.cfg.frameMax < s.args.len
  | .erase => s.args.npages < 1 ∨ 127 < s.args.npages
  | .handshake | .get | .go | .goEntry | .upload => False

/-- The state after a request for `o` that is refused with `k`: `op` holds the request's code, `status` the kind, and
nothing else has changed (42_memory_commands.md R200). -/
def refusedWith (s : State) (o : Op) (k : Status) : State :=
  { s with op := o, status := k, busy := false, phase := .idle }

/-- The state after an operation that fails with the channel kind `k` (60_exceptions.md R305); a failed `UPLOAD` also
ends the dispatch of its record (10_state.md R33; log 13). -/
def faultedWith (s : State) (k : Status) : State :=
  { s with
    status := k, session := .faulted, busy := false, phase := .idle
    recValid := if s.op = Op.upload then false else s.recValid }

/-- The instructions that are frames the engine sends (30_encoding.md R90). -/
def isFrame : Instr → Bool
  | .sync | .cmdGet | .cmdRead | .cmdWrite | .cmdErase | .cmdGo => true
  | .addr _ | .len _ | .pay _ | .erasePay _ => true
  | .handshake | .get | .read | .write | .erase | .go | .goEntry | .upload => false
  | .ack | .nack | .rspOther _ | .getRsp _ _ | .rdData _ => false
  | .recData _ _ | .recEof _ _ | .recEla _ _ _ | .recSla _ _ _ _ _ => false

/-- The wire command a frame opens, if it is an `F_CMD` of a gated command: its opcode. -/
def gatedFrame (cfg : Params) : Instr → Option Byte
  | .cmdRead => some cfg.opRead
  | .cmdWrite => some cfg.opWrite
  | .cmdErase => some cfg.opErase
  | .cmdGo => some Config.opGo
  | _ => none

/-- `t` differs from `s` at most in what one channel call may write: the environment and the counter of free values
(and for a transmit `tx_buf` and `phase`). -/
def SameButForTheCall (s t : State) : Prop :=
  { t with env := s.env, freeCtr := s.freeCtr, txBuf := s.txBuf, phase := s.phase } = s

/-- The reset input is not asserted at the coming step. -/
def NoReset (s : State) : Prop := s.env.resetLine.head? ≠ some true

/-- The state in which the step of `s.place i` executes `i`: the level of the reset input is read; a request is taken
from the host and latched; a received form has been received; a frame or a record finds the state as placed. -/
def State.presented (i : Instr) (s : State) : State :=
  let p := { s.place i with env.resetLine := s.env.resetLine }
  let asked (o : Op) := p.latch ⟨o.code, s.args, s.env.lines⟩ s.env.host
  match i with
  | .handshake => asked .handshake
  | .get => asked .get
  | .read => asked .read
  | .write => asked .write
  | .erase => asked .erase
  | .go => asked .go
  | .goEntry => asked .goEntry
  | .upload => asked .upload
  | .ack | .nack | .rspOther _ => p.rx 1 s.cfg.tSync
  | .getRsp _ ops => p.rx (ops.length + 1) s.cfg.tData
  | .rdData d => p.rx d.length s.cfg.tData
  | .sync | .cmdGet | .cmdRead | .cmdWrite | .cmdErase | .cmdGo => p
  | .addr _ | .len _ | .pay _ | .erasePay _ => p
  | .recData _ _ | .recEof _ _ | .recEla _ _ _ | .recSla _ _ _ _ _ => p

/-- `k` steps from `s` end in `t`. -/
def Runs (k : Nat) (s t : State) : Prop := Host.Core.run Sys2Proof.core k s = .next t

/-- The trace of one acknowledged stage (40_framing.md R146): the frame, then the ACK within `t`. -/
def stageCalls (cfg : Params) (frame : List Byte) (t : Nat) : List ChanCall :=
  [.tx frame cfg.tTx .ok, .rx 1 t (.ok [Config.ack])]

/-- The trace of one acknowledged write (42_memory_commands.md R202). -/
def writeCalls (cfg : Params) (a : Addr) (d : List Byte) : List ChanCall :=
  stageCalls cfg (cmdFrame cfg.opWrite) cfg.tAck ++
  stageCalls cfg (withXor (addrBytes a)) cfg.tAck ++
  stageCalls cfg (withXor (countByte d.length :: d)) cfg.tWriteAck

/-- The chunks of a `DATA` record (44_image_sequencer.md R273): `n` bytes each from the front, the last one what is
left, each with its address. -/
def chunksOf (n : Nat) (base : Addr) (a : Half16) (d : List Byte) : List (Addr × List Byte) :=
  (List.range ((d.length + n - 1) / n)).map fun k =>
    (recordAddress base a (k * n), (d.drop (k * n)).take n)

/-- What a sequence of records asks to be written, given `base_address` (R273, R276). -/
def imageWrites (n : Nat) : Addr → List Instr → List (Addr × List Byte)
  | _, [] => []
  | base, .recData a d :: rest => chunksOf n base a d ++ imageWrites n base rest
  | _, .recEla _ d0 d1 :: rest => imageWrites n (elaBase d0 d1) rest
  | base, _ :: rest => imageWrites n base rest

/-- `base_address` after a sequence of records (R276: replaced, not added to). -/
def imageBase : Addr → List Instr → Addr
  | base, [] => base
  | _, .recEla _ d0 d1 :: rest => imageBase (elaBase d0 d1) rest
  | base, _ :: rest => imageBase base rest

/-- The entry address after a sequence of records (R277: the later one wins). -/
def imageEntry : Option Addr → List Instr → Option Addr
  | e, [] => e
  | _, .recSla _ d0 d1 d2 d3 :: rest => imageEntry (some (addrOf d0 d1 d2 d3)) rest
  | e, _ :: rest => imageEntry e rest

end Sys2Proof.Machine
end

