-- ==== Sys2Proof/Certificates/Slice0/Obligations.lean ====
section
/-! DEFINITION. The statements for the provers. Each docstring names the rule of spec/ it formalises. Statements about a step
without a reset are about `engineStep`; `StepReadsTheResetInput` says how `step` is made of it. -/

open Sys2Proof Sys2Proof.Machine

/-! ### Encodings -/

/-- Decode and encode agree: every well-formed instruction, with every operand, is read back from its bytes in its space. -/
def Obligations.DecodeOfEncodeIsTheInstruction : Prop :=
  ∀ (cfg : Params) (i : Instr), cfg.Valid → i.wf cfg = true → decode cfg i.space (encode cfg i) = .ok i

/-- The other direction: what decodes is well formed, belongs to the space, and but for the text of a record (two cases
of digits, trailing characters) has this one encoding. -/
def Obligations.DecodedBytesAreTheEncoding : Prop :=
  ∀ (cfg : Params) (sp : Space) (bytes : List Byte) (i : Instr), cfg.Valid → decode cfg sp bytes = .ok i →
    i.wf cfg = true ∧ i.space = sp ∧ (sp ≠ .hexLine → encode cfg i = bytes)

/-- Words written out from the spec's encodings decode to what they stand for. The opcodes are those of the default
parameters (PRESUMED, log 2), but for 0x21, which R96 gives. -/
def Obligations.SpecWordsDecode : Prop :=
  decode Params.default .opSelect [0x06] = .ok .goEntry ∧
  decode Params.default .sync [0x7F] = .ok .sync ∧
  decode Params.default .command [0x21, 0xDE] = .ok .cmdGo ∧
  decode Params.default .command [0x43, 0xBC] = .ok .cmdErase ∧
  decode Params.default .address [0x12, 0x34, 0x56, 0x78, 0x08] = .ok (.addr 0x12345678) ∧
  decode Params.default .length [0x7F, 0x80] = .ok (.len 0x7F) ∧
  decode Params.default .payload [0x03, 0x01, 0x02, 0x03, 0x04, 0x07] = .ok (.pay [0x01, 0x02, 0x03, 0x04]) ∧
  decode Params.default .erase [0x00, 0x01, 0x02, 0x03] = .ok (.erasePay [0x0102]) ∧
  decode Params.default .response [0x79] = .ok .ack ∧
  decode Params.default .response [0x1F] = .ok .nack ∧
  decode Params.default .getRsp [0x01, 0x31, 0x21] = .ok (.getRsp 0x31 [0x21])

/-- R93, R98: every command frame is the opcode and its 8-bit complement, and the two XOR to 0xFF (0x21 is the spec's
derivation, R96); the length frame of a read of L bytes is L-1 and its complement, sent in the sending half of its phase
(R201; the halves are the model's, log 7). -/
def Obligations.TwoByteFramesCarryTheComplement : Prop :=
  (∀ cfg : Params,
    encode cfg .cmdGet = [cfg.opGet, cfg.opGet ^^^ 0xFF] ∧
    encode cfg .cmdRead = [cfg.opRead, cfg.opRead ^^^ 0xFF] ∧
    encode cfg .cmdWrite = [cfg.opWrite, cfg.opWrite ^^^ 0xFF] ∧
    encode cfg .cmdErase = [cfg.opErase, cfg.opErase ^^^ 0xFF] ∧
    encode cfg .cmdGo = [0x21, 0xDE]) ∧
  (∀ op : Byte, cmdFrame op = [op, op ^^^ 0xFF] ∧ op ^^^ (op ^^^ 0xFF) = 0xFF) ∧
  ∀ (s : State) (n : Nat), 1 ≤ n → n ≤ 256 →
    encode s.cfg (.len (countByte n)) = [BitVec.ofNat 8 (n - 1), BitVec.ofNat 8 (n - 1) ^^^ 0xFF] ∧
    (s.phase = .rdLen .send → s.args.len = n → engineStep s = exec (.len (countByte n)) s)

/-- R97, R99: the address frame is the four bytes, most significant first, and their XOR; decoding it recovers the address;
five bytes are a well-formed frame exactly when their XOR is 0x00. -/
def Obligations.AddressFrameRoundTrip : Prop :=
  (∀ (cfg : Params) (a : Addr),
    encode cfg (.addr a) =
      [a.extractLsb' 24 8, a.extractLsb' 16 8, a.extractLsb' 8 8, a.extractLsb' 0 8,
        a.extractLsb' 24 8 ^^^ a.extractLsb' 16 8 ^^^ a.extractLsb' 8 8 ^^^ a.extractLsb' 0 8] ∧
    decode cfg .address (encode cfg (.addr a)) = .ok (.addr a)) ∧
  ∀ (cfg : Params) (b0 b1 b2 b3 c : Byte),
    ((∃ a, decode cfg .address [b0, b1, b2, b3, c] = .ok (.addr a)) ↔ xor8 [b0, b1, b2, b3, c] = 0x00) ∧
    ∀ a, decode cfg .address [b0, b1, b2, b3, c] = .ok (.addr a) →
      a = b0.setWidth 32 <<< 24 ||| b1.setWidth 32 <<< 16 ||| b2.setWidth 32 <<< 8 ||| b3.setWidth 32

/-- R100: the payload frame, its length and checksum; it is well formed exactly when its length is f[0] + 3 and its bytes
XOR to 0x00 (and the count is one the engine sends). -/
def Obligations.PayloadFrameWellFormed : Prop :=
  (∀ (cfg : Params) (d : List Byte), 1 ≤ d.length → d.length ≤ cfg.frameMax → cfg.Valid →
    encode cfg (.pay d) =
      [BitVec.ofNat 8 (d.length - 1)] ++ d ++ [xor8 ([BitVec.ofNat 8 (d.length - 1)] ++ d)] ∧
    (encode cfg (.pay d)).length = d.length + 2) ∧
  ∀ (cfg : Params) (n : Byte) (rest : List Byte), cfg.Valid →
    ((∃ d, decode cfg .payload (n :: rest) = .ok (.pay d)) ↔
      (n :: rest).length = n.toNat + 3 ∧ xor8 (n :: rest) = 0x00 ∧ n.toNat + 1 ≤ cfg.frameMax)

/-- R103 (the bounds are the spec's decision D20): the erase frame: count byte, two bytes a page, high byte first, XOR
of every byte before; it fits the erase payload buffer. -/
def Obligations.EraseFrameListsThePages : Prop :=
  ∀ (cfg : Params) (ps : List Half16), 1 ≤ ps.length → ps.length ≤ 127 →
    ∃ body, body = BitVec.ofNat 8 (ps.length - 1) :: ps.flatMap (fun p => [p.extractLsb' 8 8, p.extractLsb' 0 8]) ∧
      encode cfg (.erasePay ps) = body ++ [xor8 body] ∧
      (encode cfg (.erasePay ps)).length = 2 * ps.length + 2 ∧
      (encode cfg (.erasePay ps)).length ≤ Config.eraseBuf

/-- R110 (its laws are the spec's derivation): the XOR of all bytes, 0x00 for none; it closes a sequence to 0x00, does
not depend on the order, and is the byte itself for one byte; it is the last byte of the three checksummed frames. -/
def Obligations.XorChecksumLaws : Prop :=
  (∀ s, xor8 (s ++ [xor8 s]) = 0x00) ∧
  (∀ s t : List Byte, s.Perm t → xor8 s = xor8 t) ∧
  (∀ b, xor8 [b] = b) ∧ xor8 [] = 0x00 ∧ (∀ b s, xor8 (b :: s) = b ^^^ xor8 s) ∧
  ∀ (cfg : Params) (i : Instr), i.space ∈ [.address, .payload, .erase] →
    ∃ s, encode cfg i = s ++ [xor8 s]

/-- R112: the value of `cks_hex`; a byte is `cks_hex` of a sequence exactly when the sum of all bytes, it included, is 0
modulo 256; a line whose digits decode passes the check exactly then. -/
def Obligations.HexChecksumMakesTheSumZero : Prop :=
  (∀ s : List Byte, (cksHex s).toNat = (256 - (s.map BitVec.toNat).sum % 256) % 256) ∧ cksHex [] = 0x00 ∧
  (∀ (s : List Byte) (c : Byte), c = cksHex s ↔ ((s ++ [c]).map BitVec.toNat).sum % 256 = 0) ∧
  ∀ (a : Half16) (ty : Byte) (d : List Byte) (ck : Byte),
    parseChecked a ty d ck ≠ .err .badChecksum ↔
      ((BitVec.ofNat 8 d.length :: a.extractLsb' 8 8 :: a.extractLsb' 0 8 :: ty :: d ++ [ck]).map BitVec.toNat).sum % 256 = 0

/-- R106: the digits, both letter cases (lower case is the spec's decision D24), nothing else; a byte is two digits, the
first one the high nibble. -/
def Obligations.HexDigitsOfBothCases : Prop :=
  (∀ c : Byte,
    (0x30 ≤ c.toNat → c.toNat ≤ 0x39 → hexDigit c = some (BitVec.ofNat 8 (c.toNat - 0x30))) ∧
    (0x41 ≤ c.toNat → c.toNat ≤ 0x46 → hexDigit c = some (BitVec.ofNat 8 (c.toNat - 0x41 + 10))) ∧
    (0x61 ≤ c.toNat → c.toNat ≤ 0x66 → hexDigit c = some (BitVec.ofNat 8 (c.toNat - 0x61 + 10))) ∧
    (hexDigit c ≠ none →
      (0x30 ≤ c.toNat ∧ c.toNat ≤ 0x39) ∨ (0x41 ≤ c.toNat ∧ c.toNat ≤ 0x46) ∨ (0x61 ≤ c.toNat ∧ c.toNat ≤ 0x66))) ∧
  ∀ (chars : List Byte) (k : Nat) (c1 c2 h l : Byte),
    chars[k]? = some c1 → chars[k + 1]? = some c2 → hexDigit c1 = some h → hexDigit c2 = some l →
    ∃ b, hexByte chars k = some b ∧ b.toNat = 16 * h.toNat + l.toNat

/-- R75 (carry and wrap are the spec's decision D30), R109: the address of byte `off` of a record, modulo 2^32, with
carry out of the low 16 bits, and no carry out of 32 bits for the first byte when the low half of `base_address` is
zero; how the data bytes of an `ELA` and of an `SLA` record make the two addresses, the low half of the first being
zero. -/
def Obligations.AddressesAreFormedModulo2To32 : Prop :=
  (∀ (base : Addr) (a : Half16) (off : Nat),
    (recordAddress base a off).toNat = (base.toNat + a.toNat + off) % 2 ^ 32 ∧
    (base.extractLsb' 0 16 = 0 → (recordAddress base a 0).toNat = base.toNat + a.toNat)) ∧
  (∀ d0 d1 : Byte,
    (elaBase d0 d1).toNat = (d0.toNat * 256 + d1.toNat) * 65536 ∧ (elaBase d0 d1).extractLsb' 0 16 = 0) ∧
  ∀ d0 d1 d2 d3 : Byte,
    (addrOf d0 d1 d2 d3).toNat = d0.toNat * 2 ^ 24 + d1.toNat * 2 ^ 16 + d2.toNat * 2 ^ 8 + d3.toNat

/-! ### The record parser -/

/-- R254 (the spec's derivation from R240 to R248): parsing the text of a record gives exactly its fields, for the four
types with their counts. -/
def Obligations.ParseOfEncodedRecord : Prop :=
  ∀ (a : Half16) (ty : Byte) (d : List Byte), d.length ≤ 255 →
    (ty = 0x00 ∨ ty = 0x01 ∨ (ty = 0x04 ∧ d.length = 2) ∨ (ty = 0x05 ∧ d.length = 4)) →
    encodeRecord a ty d =
      0x3A :: (recordBytes a ty d ++ [cksHex (recordBytes a ty d)]).flatMap hexPair ∧
    parse (encodeRecord a ty d) = .ok ⟨a, ty, d, cksHex (recordBytes a ty d)⟩

/-- R245 (that the session is unchanged is the spec's decision D13): a line whose digits decode, in either case and with
anything behind the record, fails the checksum check exactly when its checksum byte is not the checksum, whatever its type;
so does the text of a record closed by any byte; the upload then halts with MalformedRecord and no channel call, the record
registers unspecified (log 26). -/
def Obligations.WrongChecksumIsMalformed : Prop :=
  (∀ (chars : List Byte) (bc ah al ty c : Byte) (d : List Byte),
    chars[0]? = some 0x3A → hexByte chars 1 = some bc → hexByte chars 3 = some ah → hexByte chars 5 = some al →
    hexByte chars 7 = some ty → 11 + 2 * bc.toNat ≤ chars.length → hexBytes chars 9 bc.toNat = some d →
    hexByte chars (9 + 2 * bc.toNat) = some c →
    (parse chars = .err .badChecksum ↔ c ≠ cksHex (bc :: ah :: al :: ty :: d)) ∧
    ∀ s : State, s.phase = .upParse → s.line = chars → c ≠ cksHex (bc :: ah :: al :: ty :: d) →
      engineStep s = .next
        { s with
          recValid := false, record := freeRecord s.freeCtr, freeCtr := s.freeCtr + 1
          status := .malformedRecord, busy := false, phase := .idle }) ∧
  ∀ (a : Half16) (ty : Byte) (d : List Byte) (c : Byte), d.length ≤ 255 →
    (parse (0x3A :: (recordBytes a ty d ++ [c]).flatMap hexPair) = .err .badChecksum ↔
      c ≠ cksHex (recordBytes a ty d))

/-- R246 (the order of the checks is the spec's decision D26): UnknownRecordType is reported exactly for a line that is
otherwise well formed, its checksum included; every other failure of the parse is MalformedRecord. -/
def Obligations.UnknownTypeOnlyWhenOtherwiseWellFormed : Prop :=
  (∀ e, parseStatus e = if e = .unknownType then .unknownRecordType else .malformedRecord) ∧
  ∀ chars : List Byte,
    parse chars = .err .unknownType ↔
      ∃ (bc ah al ty : Byte) (d : List Byte),
        chars[0]? = some 0x3A ∧ hexByte chars 1 = some bc ∧ hexByte chars 3 = some ah ∧
        hexByte chars 5 = some al ∧ hexByte chars 7 = some ty ∧ 11 + 2 * bc.toNat ≤ chars.length ∧
        hexBytes chars 9 bc.toNat = some d ∧
        hexByte chars (9 + 2 * bc.toNat) = some (cksHex (recordBytes (half16Of ah al) ty d)) ∧
        ty ≠ 0x00 ∧ ty ≠ 0x01 ∧ ty ≠ 0x04 ∧ ty ≠ 0x05

/-- R244 (the spec's decision D25): once the header is decoded, a line shorter than 11 + 2*bc fails, and of a longer one
nothing behind that position is read. -/
def Obligations.LineLengthFollowsTheByteCount : Prop :=
  ∀ (chars : List Byte) (bc ah al ty : Byte),
    chars[0]? = some 0x3A → hexByte chars 1 = some bc → hexByte chars 3 = some ah →
    hexByte chars 5 = some al → hexByte chars 7 = some ty →
    (chars.length < 11 + 2 * bc.toNat → parse chars = .err .shortLine ∧ parseStatus .shortLine = .malformedRecord) ∧
    (11 + 2 * bc.toNat ≤ chars.length → ∀ more, parse (chars.take (11 + 2 * bc.toNat) ++ more) = parse chars)

/-- What a successful parse leaves in the record registers is a record of one of the four types, with its checksum and the
count its type asks for, and the dispatch has an instruction for it (R241, R244 to R248). -/
def Obligations.ParsedRecordsAreGenuine : Prop :=
  ∀ (chars : List Byte) (r : Record), parse chars = .ok r →
    Genuine r ∧ chars[0]? = some 0x3A ∧ 11 + 2 * r.count ≤ chars.length ∧ r.toInstr ≠ none

/-- R272 (which characters these are is the spec's decision D28): the trailing CR and LF characters go, as many as there
are, and nothing else. -/
def Obligations.StripRemovesTrailingLineEndings : Prop :=
  ∀ body ends : List Byte, (∀ c ∈ ends, c = 0x0D ∨ c = 0x0A) →
    body.getLast? ≠ some 0x0D → body.getLast? ≠ some 0x0A → strip (body ++ ends) = body

/-! ### Requests: admission and start -/

/-- R179: the gate is membership in `cmd_set`; a gated operation whose opcode is not in it is refused with Unsupported,
with no channel call and nothing written but `op` (the request's own register, log 23) and `status`; the gate that a
handshake opens is that of the opcodes behind the version byte, which does not open it (R178, the spec's decision D14). -/
def Obligations.GatedOperationsRefusedUnsupported : Prop :=
  (∀ (s : State) (x : Byte), s.inSet x = true ↔ ∃ i, i < s.cmdCount ∧ s.cmdSet[i]? = some x) ∧
  (∀ (s : State) (o : Op) (x : Byte), gateOpcode s.cfg o = some x → s.busy = false → x ∉ s.cmdSet →
    exec o.toInstr s = .next (refusedWith s o .unsupported)) ∧
  ∀ (s : State) (v : Byte) (ops : List Byte), s.phase = .hsCommit → s.getBuf = v :: ops →
    ∃ t, engineStep s = .next t ∧ ∀ x, t.inSet x = true ↔ x ∈ ops

/-- R181, R303 (the order is the spec's decision D19): past the gate the session state is tested, and only then the
operands. A refusal writes `status` and nothing else but `op`, the request's own register (the model's choice, log 23). -/
def Obligations.RefusalOrderStateThenOperands : Prop :=
  ∀ (s : State) (o : Op), s.busy = false → (∀ x, gateOpcode s.cfg o = some x → x ∈ s.cmdSet) →
    (o ≠ .handshake → s.session ≠ .ready → exec o.toInstr s = .next (refusedWith s o .notReady)) ∧
    (s.session = .ready → OperandsOutOfRange s o → exec o.toInstr s = .next (refusedWith s o .badOperand)) ∧
    (s.session = .ready → o = .goEntry → s.entry = none →
      exec o.toInstr s = .next (refusedWith s o .entryUnset))

/-- R172, R171 row 1 (the spec's decision D16): `HANDSHAKE` is admitted in every session state and starts a new session;
its first phase is the drain. -/
def Obligations.HandshakeStartsANewSession : Prop :=
  ∀ s : State, s.busy = false →
    exec .handshake s = .next
      { s with
        op := .handshake, busy := true, phase := .hsDrain
        session := .uninitialized, cmdSet := [], baseAddress := 0x00000000, entry := none }

/-- R180, R201 to R205, R271 (the spec's decisions D15, D20, D37): an admitted request begins with the first frame or
line of its operation; `GET` zeroes `get_count` and `READ` zeroes `rd_count` first, `UPLOAD` sets `line_index` to 0;
`GET` and `UPLOAD` are not gated. -/
def Obligations.AdmittedRequestsStart : Prop :=
  ∀ s : State, s.busy = false → s.session = .ready →
    exec .get s = .next { s with op := .get, busy := true, phase := .getCmd .send, getBuf := [] } ∧
    exec .upload s = .next { s with op := .upload, busy := true, phase := .upNext, lineIndex := 0 } ∧
    (s.cfg.opRead ∈ s.cmdSet → 1 ≤ s.args.len → s.args.len ≤ 256 →
      exec .read s = .next { s with op := .read, busy := true, phase := .rdCmd .send, rdBuf := [] }) ∧
    (s.cfg.opWrite ∈ s.cmdSet → 1 ≤ s.args.len → s.args.len ≤ s.cfg.frameMax →
      exec .write s = .next { s with op := .write, busy := true, phase := .wrCmd .send }) ∧
    (s.cfg.opErase ∈ s.cmdSet → 1 ≤ s.args.npages → s.args.npages ≤ 127 →
      exec .erase s = .next { s with op := .erase, busy := true, phase := .erCmd .send }) ∧
    ((0x21 : Byte) ∈ s.cmdSet →
      exec .go s = .next { s with op := .go, busy := true, phase := .goCmd .send } ∧
      (s.entry ≠ none →
        exec .goEntry s = .next { s with op := .goEntry, busy := true, phase := .goCmd .send }))

/-- R21 (the spec's decision D2): while `busy = 1` a request is not accepted, and no step takes one from the host. -/
def Obligations.BusyPortAcceptsNothing : Prop :=
  (∀ (s : State) (o : Op), s.busy = true → exec o.toInstr s = .next s) ∧
  ∀ s t : State, s.busy = true → NoReset s → step s = .next t → t.env.host = s.env.host

/-! ### Frames and responses -/

/-- R141, R146 (one call a frame is the spec's decision D7): sending a frame is one transmit of its bytes; after `ok`
the acknowledge of the phase is awaited; an error is TransportError, no receive is attempted, and the operation ends (an
`UPLOAD` with `rec_valid` cleared, log 13). -/
def Obligations.FrameIsOneTransmit : Prop :=
  ∀ (i : Instr) (s : State), isFrame i = true →
    (s.nextTxReply = .ok →
      ∃ t, exec i s = .next t ∧ SameButForTheCall s t ∧ t.txBuf = encode s.cfg i ∧ t.phase = s.phase.sent ∧
        t.env = { s.env with
          txReplies := s.env.txReplies.tail
          trace := s.env.trace ++ [.tx (encode s.cfg i) s.cfg.tTx .ok] }) ∧
    (s.nextTxReply = .error →
      ∃ t, exec i s = .next t ∧ SameButForTheCall (faultedWith s .transportError) t ∧ t.txBuf = encode s.cfg i ∧
        t.phase = .idle ∧
        t.env = { s.env with
          txReplies := s.env.txReplies.tail
          trace := s.env.trace ++ [.tx (encode s.cfg i) s.cfg.tTx .error] })

/-- R144: the acknowledge byte moves the engine to the next stage of its operation, in the order of R172, R176, R201 to
R205; in a phase that awaits none it does nothing (the model's choice, log 14). -/
def Obligations.AckMovesToTheNextStage : Prop :=
  ∀ s : State,
    (s.phase = .hsSyncAck → exec .ack s = .next { s with getBuf := [], phase := .getCmd .send }) ∧
    (s.phase = .getCmd .await → exec .ack s = .next { s with phase := .getLen }) ∧
    (s.phase = .rdCmd .await → exec .ack s = .next { s with phase := .rdAddr .send }) ∧
    (s.phase = .rdAddr .await → exec .ack s = .next { s with phase := .rdLen .send }) ∧
    (s.phase = .rdLen .await → exec .ack s = .next { s with phase := .rdData }) ∧
    (s.phase = .wrCmd .await → exec .ack s = .next { s with phase := .wrAddr .send }) ∧
    (s.phase = .wrAddr .await → exec .ack s = .next { s with phase := .wrPay .send }) ∧
    (s.phase = .wrPay .await → s.op ≠ .upload →
      exec .ack s = .next { s with status := .ok, busy := false, phase := .idle }) ∧
    (s.phase = .erCmd .await → exec .ack s = .next { s with phase := .erPay .send }) ∧
    (s.phase = .erPay .await → exec .ack s = .next { s with status := .ok, busy := false, phase := .idle }) ∧
    (s.phase = .goCmd .await → exec .ack s = .next { s with phase := .goAddr .send }) ∧
    (s.phase = .goAddr .await →
      exec .ack s = .next { s with status := .ok, busy := false, phase := .idle, session := .relinquished }) ∧
    (s.phase.awaitsAck = false → exec .ack s = .next s)

/-- R273, R274 (chunks are the spec's decision D30): the final ACK of a chunk advances by the bytes sent; the next chunk
meets the gate again; behind the last one the record is dispatched. A refusal ends the dispatch, so `rec_valid` is cleared
(R33, read so by log 13). -/
def Obligations.AckOfAChunkAdvancesTheRecord : Prop :=
  ∀ (s : State) (off : Nat), s.phase = .wrPay .await → s.op = .upload →
    s.chunkOff < s.record.count → off = s.chunkOff + min s.cfg.chunk (s.record.count - s.chunkOff) →
    (off < s.record.count → s.cfg.opWrite ∈ s.cmdSet → s.session = .ready →
      exec .ack s = .next { s with chunkOff := off, phase := .wrCmd .send }) ∧
    (off < s.record.count → s.cfg.opWrite ∉ s.cmdSet →
      exec .ack s = .next
        { s with chunkOff := off, recValid := false, status := .unsupported, busy := false, phase := .idle }) ∧
    (off < s.record.count → s.cfg.opWrite ∈ s.cmdSet → s.session ≠ .ready →
      exec .ack s = .next
        { s with chunkOff := off, recValid := false, status := .notReady, busy := false, phase := .idle }) ∧
    (¬ off < s.record.count →
      exec .ack s = .next
        { s with chunkOff := off, recValid := false, lineIndex := s.lineIndex + 1, phase := .upNext })

/-- R144 (the kind for a byte that is neither is the spec's decision D6): a byte that is not 0x79 fails the awaited
stage with ProtocolNack, whatever it is, and faults the session (an `UPLOAD` with `rec_valid` cleared, log 13); in a phase
that awaits none it does nothing (the model's choice, log 14). -/
def Obligations.OtherResponsesAreProtocolNack : Prop :=
  (∀ b : Byte, b ≠ 0x79 → decodeResponse b = .nack ∨ decodeResponse b = .rspOther b) ∧
  ∀ (s : State) (b : Byte),
    (s.phase.awaitsAck = true →
      exec .nack s = .next (faultedWith s .protocolNack) ∧
      exec (.rspOther b) s = .next (faultedWith s .protocolNack)) ∧
    (s.phase.awaitsAck = false → exec .nack s = .next s ∧ exec (.rspOther b) s = .next s)

/-- R176, R177, R180, R201 (the spec's decisions D11, D12, D13): the Get list goes into `get_buf`, version byte first,
if it fits; `HANDSHAKE` goes on to its commit, `GET` is done. The data of a read goes into `rd_buf`, unchecked, and the
read is done. A list that does not fit ends in `faultedWith`, the state of every failed stage (log 13 in it). -/
def Obligations.ReceivedBytesFillTheBuffers : Prop :=
  ∀ (s : State) (n v : Byte) (ops d : List Byte),
    (s.phase = .getList n → ops.length + 1 ≤ s.cfg.getBufCap →
      (s.op = .handshake → exec (.getRsp v ops) s = .next { s with getBuf := v :: ops, phase := .hsCommit }) ∧
      (s.op ≠ .handshake → exec (.getRsp v ops) s =
        .next { s with getBuf := v :: ops, status := .ok, busy := false, phase := .idle })) ∧
    (s.phase = .getList n → s.cfg.getBufCap < ops.length + 1 →
      exec (.getRsp v ops) s = .next (faultedWith s .bufferTooSmall)) ∧
    (s.phase = .rdData →
      exec (.rdData d) s = .next { s with rdBuf := d, status := .ok, busy := false, phase := .idle })

/-- R275, R276, R277 (the unused address field is the spec's decision D27): the record types that make no channel call;
the address field is not used, `base_address` is replaced, `entry_address` is set; no gate is met. -/
def Obligations.EofElaSlaRecords : Prop :=
  ∀ (s : State) (a : Half16) (d : List Byte) (d0 d1 d2 d3 : Byte),
    exec (.recEof a d) s = .next { s with recValid := false, status := .ok, busy := false, phase := .idle } ∧
    exec (.recEla a d0 d1) s = .next
      { s with
        baseAddress := (d0.setWidth 32 <<< 8 ||| d1.setWidth 32) <<< 16
        recValid := false, lineIndex := s.lineIndex + 1, phase := .upNext } ∧
    exec (.recSla a d0 d1 d2 d3) s = .next
      { s with
        entry := some (d0.setWidth 32 <<< 24 ||| d1.setWidth 32 <<< 16 ||| d2.setWidth 32 <<< 8 ||| d3.setWidth 32)
        recValid := false, lineIndex := s.lineIndex + 1, phase := .upNext }

/-- R273, R274 (no data, no write is the spec's decision D29): a `DATA` record with no data makes no write and meets no
gate; one with data starts the write of its first chunk, or is refused by the gate or the session state without a
channel call, which ends the dispatch and clears `rec_valid`
(R33, read so by log 13). That the record registers hold the instruction's operands is log 25. -/
def Obligations.DataRecordStartsItsWrite : Prop :=
  ∀ (s : State) (a : Half16) (d : List Byte),
    (d = [] → exec (.recData a d) s = .next
      { s with chunkOff := 0, recValid := false, record := Record.make a 0x00 d, lineIndex := s.lineIndex + 1, phase := .upNext }) ∧
    (d ≠ [] → s.cfg.opWrite ∈ s.cmdSet → s.session = .ready → exec (.recData a d) s = .next
      { s with chunkOff := 0, recValid := true, record := Record.make a 0x00 d, phase := .wrCmd .send }) ∧
    (d ≠ [] → s.cfg.opWrite ∉ s.cmdSet → exec (.recData a d) s = .next
      { s with
        chunkOff := 0, recValid := false, record := Record.make a 0x00 d
        status := .unsupported, busy := false, phase := .idle }) ∧
    (d ≠ [] → s.cfg.opWrite ∈ s.cmdSet → s.session ≠ .ready → exec (.recData a d) s = .next
      { s with
        chunkOff := 0, recValid := false, record := Record.make a 0x00 d
        status := .notReady, busy := false, phase := .idle })

/-! ### The step -/

/-- R350, R351 (the spec's decision D33): `step` reads the reset input first. Asserted, every piece of state takes its
reset value, whatever the engine was doing, and no channel call is made; released, the engine takes its own step. The
values that R38 leaves unspecified (`op`, the operands, `tx_buf`, `chunkOff`, the record registers) are the model's
choice (log 8, log 10) and are left out here. -/
def Obligations.StepReadsTheResetInput : Prop :=
  ∀ s : State,
    (s.env.resetLine = [] → step s = engineStep s) ∧
    (∀ rest, s.env.resetLine = false :: rest →
      step s = engineStep { s with env := { s.env with resetLine := rest } }) ∧
    (∀ rest, s.env.resetLine = true :: rest →
      ∃ t, step s = .next t ∧ t.env = { s.env with resetLine := rest } ∧ t.cfg = s.cfg ∧
        t.session = .uninitialized ∧ t.cmdCount = 0 ∧ t.baseAddress = 0 ∧ t.entryValid = false ∧
        t.status = .ok ∧ t.getCount = 0 ∧ t.rdCount = 0 ∧ t.recValid = false ∧ t.lineLen = 0 ∧
        t.lineIndex = 0 ∧ t.phase = .idle ∧ t.busy = false)

/-- R38 (its values are the spec's decision D33 but for those its source gives): the reset state. -/
def Obligations.ResetStateHoldsTheResetValues : Prop :=
  State.reset.session = .uninitialized ∧ State.reset.cmdCount = 0 ∧ State.reset.baseAddress = 0x00000000 ∧
  State.reset.entryValid = false ∧ State.reset.status = .ok ∧ State.reset.getCount = 0 ∧ State.reset.rdCount = 0 ∧
  State.reset.recValid = false ∧ State.reset.lineLen = 0 ∧ State.reset.lineIndex = 0 ∧
  State.reset.phase = .idle ∧ State.reset.busy = false

/-- A step runs the decoded instruction: what is decoded from the request's op select code, from a received response byte,
from a Get response or read data, or from the current line, is what the engine executes, on the state with the operands
copied or the receive made. -/
def Obligations.StepRunsTheDecodedInstruction : Prop :=
  ∀ (s : State) (i : Instr),
    (∀ r rest, s.phase = .idle → s.busy = false → s.env.host = r :: rest →
      decode s.cfg .opSelect [r.op.setWidth 8] = .ok i → engineStep s = exec i (s.latch r rest)) ∧
    (∀ b, s.phase.awaitsAck = true → s.nextRxReply 1 = .ok b →
      decode s.cfg .response b = .ok i → engineStep s = exec i (s.rx 1 s.ackTimeout)) ∧
    (∀ n b, s.phase = .getList n → s.nextRxReply (n.toNat + 1) = .ok b →
      decode s.cfg .getRsp (n :: b) = .ok i → engineStep s = exec i (s.rx (n.toNat + 1) s.cfg.tData)) ∧
    (∀ b, s.phase = .rdData → s.nextRxReply s.args.len = .ok b →
      decode s.cfg .readData b = .ok i → engineStep s = exec i (s.rx s.args.len s.cfg.tData)) ∧
    (s.phase = .upParse → decode s.cfg .hexLine s.line = .ok i →
      ∃ t, engineStep s = .next t ∧ t.phase = .upDispatch ∧ engineStep t = exec i t ∧
        { t with recValid := s.recValid, record := s.record, phase := s.phase } = s)

/-- A step sends the frame of its phase: which frame, with which operands, each sending phase executes. -/
def Obligations.StepSendsTheFrameOfThePhase : Prop :=
  ∀ s : State,
    (s.phase = .hsSyncTx → engineStep s = exec .sync s) ∧
    (s.phase = .getCmd .send → engineStep s = exec .cmdGet s) ∧
    (s.phase = .rdCmd .send → engineStep s = exec .cmdRead s) ∧
    (s.phase = .wrCmd .send → engineStep s = exec .cmdWrite s) ∧
    (s.phase = .erCmd .send → engineStep s = exec .cmdErase s) ∧
    (s.phase = .goCmd .send → engineStep s = exec .cmdGo s) ∧
    (s.phase = .rdAddr .send → engineStep s = exec (.addr s.args.addr) s) ∧
    (s.phase = .wrAddr .send → s.op ≠ .upload → engineStep s = exec (.addr s.args.addr) s) ∧
    (s.phase = .wrPay .send → s.op ≠ .upload →
      engineStep s = exec (.pay (s.args.data.toList.take s.args.len)) s) ∧
    (s.phase = .wrAddr .send → s.op = .upload →
      engineStep s = exec (.addr (recordAddress s.baseAddress s.record.addr s.chunkOff)) s) ∧
    (s.phase = .wrPay .send → s.op = .upload →
      engineStep s = exec (.pay ((s.record.data.drop s.chunkOff).take s.cfg.chunk)) s) ∧
    (s.phase = .erPay .send → engineStep s = exec (.erasePay (s.args.pages.toList.take s.args.npages)) s) ∧
    (s.phase = .goAddr .send → s.op ≠ .goEntry → engineStep s = exec (.addr s.args.addr) s) ∧
    (∀ a, s.phase = .goAddr .send → s.op = .goEntry → s.entry = some a → engineStep s = exec (.addr a) s)

/-- Every well-formed instruction, placed for the next step, is what that step runs, in the state `s.presented i` names: as
placed, with a request latched and a received form received (log 16). -/
def Obligations.PlacedInstructionRuns : Prop :=
  ∀ (i : Instr) (s : State), i.wf s.cfg = true →
    step (s.place i) = exec i (s.presented i) ∧ (s.presented i).cfg = s.cfg ∧ (s.presented i).session = s.session

/-- R173 (the spec's decision D9): one turn of the drain: a byte is discarded and the drain goes on; a timeout or an
error ends it and is no failure; nothing is written but the phase; and it has no bound: for every k there is a channel
that keeps it draining for k steps. -/
def Obligations.DrainDiscardsUntilAReceiveFails : Prop :=
  ∀ s : State, s.phase = .hsDrain →
    (∀ b, s.nextRxReply 1 = .ok b → engineStep s = .next (s.rx 1 s.cfg.tDrain)) ∧
    (s.nextRxReply 1 = .timeout ∨ s.nextRxReply 1 = .error →
      engineStep s = .next { s.rx 1 s.cfg.tDrain with phase := .hsSyncTx }) ∧
    SameButForTheCall s (s.rx 1 s.cfg.tDrain) ∧
    ∀ (b : Byte) (k : Nat), s.env.resetLine = [] → s.env.rxEvents = List.replicate k (.bytes [b]) →
      ∃ t, Runs k s t ∧ t.phase = .hsDrain ∧ SameButForTheCall s t

/-- R177 (the spec's decisions D12, D13): BufferTooSmall exactly when n + 1 > `GET_BUF_CAP`, after the length byte and
before the list is read (`faultedWith` is the state of every failed stage, log 13 in it). -/
def Obligations.GetLengthByteMeetsTheCapacity : Prop :=
  ∀ (s : State) (n : Byte), s.phase = .getLen → s.nextRxReply 1 = .ok [n] →
    (s.cfg.getBufCap < n.toNat + 1 →
      engineStep s = .next (faultedWith (s.rx 1 s.cfg.tData) .bufferTooSmall)) ∧
    (n.toNat + 1 ≤ s.cfg.getBufCap →
      engineStep s = .next { s.rx 1 s.cfg.tData with phase := .getList n })

/-- R142 (the three outcomes are the spec's decisions D5, D8): a receive of `n` bytes delivers exactly `n` bytes or none
and changes nothing but the environment; in every receive but the drain's, `timeout` is ProtocolTimeout and `error` is
TransportError, and either ends the operation and faults the session (R305, R307; an `UPLOAD` with `rec_valid` cleared, log
13). -/
def Obligations.ReceiveDeliversAllOrFails : Prop :=
  (∀ (s : State) (n t : Nat),
    (∀ b, s.nextRxReply n = .ok b → b.length = n) ∧
    SameButForTheCall s (s.rx n t) ∧ (s.rx n t).phase = s.phase ∧ (s.rx n t).txBuf = s.txBuf ∧
    (s.rx n t).env.trace = s.env.trace ++ [.rx n t (s.nextRxReply n)]) ∧
  ∀ (s : State) (n t : Nat),
    ((s.phase.awaitsAck = true ∧ n = 1 ∧ t = s.ackTimeout) ∨ (s.phase = .getLen ∧ n = 1 ∧ t = s.cfg.tData) ∨
      (∃ k, s.phase = .getList k ∧ n = k.toNat + 1 ∧ t = s.cfg.tData) ∨
      (s.phase = .rdData ∧ n = s.args.len ∧ t = s.cfg.tData)) →
    (s.nextRxReply n = .timeout → engineStep s = .next (faultedWith (s.rx n t) .protocolTimeout)) ∧
    (s.nextRxReply n = .error → engineStep s = .next (faultedWith (s.rx n t) .transportError))

/-- R151 (the spec's decision D10): which timeout goes with which receive. -/
def Obligations.EachReceiveHasItsTimeout : Prop :=
  ∀ s t : State, NoReset s → step s = .next t →
    (s.phase = .hsDrain → ∃ r, t.env.trace = s.env.trace ++ [.rx 1 s.cfg.tDrain r]) ∧
    (s.phase = .hsSyncAck → ∃ r, t.env.trace = s.env.trace ++ [.rx 1 s.cfg.tSync r]) ∧
    (s.phase ∈ [.getCmd .await, .rdCmd .await, .wrCmd .await, .erCmd .await, .goCmd .await,
        .rdAddr .await, .wrAddr .await, .goAddr .await, .rdLen .await] →
      ∃ r, t.env.trace = s.env.trace ++ [.rx 1 s.cfg.tAck r]) ∧
    (s.phase = .wrPay .await → ∃ r, t.env.trace = s.env.trace ++ [.rx 1 s.cfg.tWriteAck r]) ∧
    (s.phase = .erPay .await → ∃ r, t.env.trace = s.env.trace ++ [.rx 1 s.cfg.tEraseAck r]) ∧
    (s.phase = .getLen → ∃ r, t.env.trace = s.env.trace ++ [.rx 1 s.cfg.tData r]) ∧
    (∀ n, s.phase = .getList n → ∃ r, t.env.trace = s.env.trace ++ [.rx (n.toNat + 1) s.cfg.tData r]) ∧
    (s.phase = .rdData → ∃ r, t.env.trace = s.env.trace ++ [.rx s.args.len s.cfg.tData r])

/-- R178 (the spec's decision D14): the commit takes the opcodes behind the version byte, in order; nothing else changes
but the session and the end of the operation (R172, R306). -/
def Obligations.CommitLeavesOutTheVersionByte : Prop :=
  ∀ (s : State) (v : Byte) (ops : List Byte), s.phase = .hsCommit → s.getBuf = v :: ops →
    engineStep s = .next
      { s with cmdSet := ops, session := .ready, status := .ok, busy := false, phase := .idle }

/-- R270, R271, R272, R279, R248, R280 (the spec's decisions D28, D31, D35): an `UPLOAD` takes a line or ends (with
`line_len <- 0`), strips it, and parses it: a line that parses goes on to its dispatch, one that does not fails the
upload with the kind of the parse, keeps the line and its index, and does not fault the session. -/
def Obligations.UploadTakesStripsAndParsesALine : Prop :=
  ∀ s : State,
    (s.phase = .upNext →
      (∀ chars rest, s.env.lines = .line chars :: rest →
        engineStep s = .next { s with line := chars, env := { s.env with lines := rest }, phase := .upStrip }) ∧
      (s.env.lines = [] → engineStep s =
        .next { s with line := [], status := .missingEof, busy := false, phase := .idle }) ∧
      (∀ rest, s.env.lines = .error :: rest → engineStep s = .next
        { s with
          line := [], env := { s.env with lines := rest }
          status := .lineSourceError, busy := false, phase := .idle })) ∧
    (s.phase = .upStrip → engineStep s = .next { s with line := strip s.line, phase := .upParse }) ∧
    (s.phase = .upParse →
      (∀ r, parse s.line = .ok r → engineStep s = .next { s with recValid := true, record := r, phase := .upDispatch }) ∧
      (parse s.line = .err .unknownType → engineStep s =
        .next
          { s with
            recValid := false, record := freeRecord s.freeCtr, freeCtr := s.freeCtr + 1
            status := .unknownRecordType, busy := false, phase := .idle }) ∧
      (∀ e, e ≠ .unknownType → parse s.line = .err e → engineStep s =
        .next
          { s with
            recValid := false, record := freeRecord s.freeCtr, freeCtr := s.freeCtr + 1
            status := .malformedRecord, busy := false, phase := .idle }))

/-- R22, R356, R38: the host reads results only while `busy = 0`: every register R356 names, as it holds it, `line` among
them; `line_len`, which R356 does not name, when the last operation was an `UPLOAD` that failed (R38, read so by log 19). R301, R23 (the numbers are the spec's decisions D23, D17):
the codes of `status` and of the session state. -/
def Obligations.HostReadsOnlyWhileIdle : Prop :=
  (∀ s : State, (s.hostView = none ↔ s.busy = true) ∧
    (∀ v, s.hostView = some v → v.status = s.status.code ∧ v.session = s.session.code ∧ v.cmdSet = s.cmdSet ∧
      v.cmdCount = s.cmdSet.length ∧ v.baseAddress = s.baseAddress ∧ v.entryAddress = s.entry ∧
      (v.entryValid = true ↔ s.entry ≠ none) ∧ v.getBuf = s.getBuf ∧ v.getCount = s.getBuf.length ∧ v.rdBuf = s.rdBuf ∧
      v.rdCount = s.rdBuf.length ∧ v.lineIndex = s.lineIndex ∧ v.line = s.line ∧
      (s.op = .upload → s.status ≠ .ok → v.lineLen = some s.line.length) ∧
      (s.op ≠ .upload ∨ s.status = .ok → v.lineLen = none))) ∧
  Status.ok.code = 0 ∧ Status.transportError.code = 1 ∧ Status.protocolNack.code = 2 ∧
  Status.protocolTimeout.code = 3 ∧ Status.unsupported.code = 4 ∧ Status.bufferTooSmall.code = 5 ∧
  Status.malformedRecord.code = 6 ∧ Status.unknownRecordType.code = 7 ∧ Status.notReady.code = 8 ∧
  Status.badOperand.code = 9 ∧ Status.entryUnset.code = 10 ∧ Status.missingEof.code = 11 ∧
  Status.lineSourceError.code = 12 ∧
  Session.uninitialized.code = 0 ∧ Session.ready.code = 1 ∧ Session.faulted.code = 2 ∧ Session.relinquished.code = 3

/-! ### Whole operations against a target that answers -/

/-- R172, R173, R174: a `HANDSHAKE` with any stale bytes in the channel and a target that acknowledges: the stale bytes are
discarded, then the trace is that of the rule, and the session is `Ready` with the reported set. -/
def Obligations.HandshakeRun : Prop :=
  ∀ (s : State) (stale : List Byte) (v : Byte) (ops : List Byte) (r : Request) (hs : List Request)
    (txs : List TxReply) (rxs : List RxEvent),
    s.busy = false → s.phase = .idle → s.env.resetLine = [] → r.op = 0 → s.env.host = r :: hs →
    ops.length ≤ 255 → ops.length + 1 ≤ s.cfg.getBufCap → s.env.txReplies = .ok :: .ok :: txs →
    s.env.rxEvents = stale.map (fun b => .bytes [b]) ++
      [.timeout, .bytes [0x79], .bytes [0x79], .bytes [BitVec.ofNat 8 ops.length], .bytes (v :: ops)] ++ rxs →
    ∃ t, Runs (stale.length + 9) s t ∧
      { t with op := s.op, args := s.args, env := s.env, txBuf := s.txBuf } =
        { s with
          session := .ready, cmdSet := ops, baseAddress := 0, entry := none, getBuf := v :: ops, status := .ok } ∧
      t.env = { s.env with
        host := hs, txReplies := txs, rxEvents := rxs
        trace := s.env.trace ++ stale.map (fun b => .rx 1 s.cfg.tDrain (.ok [b])) ++
          [.rx 1 s.cfg.tDrain .timeout] ++ stageCalls s.cfg [0x7F] s.cfg.tSync ++
          stageCalls s.cfg [s.cfg.opGet, s.cfg.opGet ^^^ 0xFF] s.cfg.tAck ++
          [.rx 1 s.cfg.tData (.ok [BitVec.ofNat 8 ops.length]),
            .rx (ops.length + 1) s.cfg.tData (.ok (v :: ops))] }

/-- R180, R176: a `GET` against a target that acknowledges; `cmd_set` stays as the handshake filled it. -/
def Obligations.GetRun : Prop :=
  ∀ (s : State) (v : Byte) (ops : List Byte) (r : Request) (hs : List Request) (txs : List TxReply) (rxs : List RxEvent),
    s.busy = false → s.phase = .idle → s.session = .ready → s.env.resetLine = [] → r.op = 1 → s.env.host = r :: hs →
    ops.length ≤ 255 → ops.length + 1 ≤ s.cfg.getBufCap → s.env.txReplies = .ok :: txs →
    s.env.rxEvents = [.bytes [0x79], .bytes [BitVec.ofNat 8 ops.length], .bytes (v :: ops)] ++ rxs →
    ∃ t, Runs 5 s t ∧
      { t with op := s.op, args := s.args, env := s.env, txBuf := s.txBuf } =
        { s with getBuf := v :: ops, status := .ok } ∧
      t.env = { s.env with
        host := hs, txReplies := txs, rxEvents := rxs
        trace := s.env.trace ++ stageCalls s.cfg [s.cfg.opGet, s.cfg.opGet ^^^ 0xFF] s.cfg.tAck ++
          [.rx 1 s.cfg.tData (.ok [BitVec.ofNat 8 ops.length]),
            .rx (ops.length + 1) s.cfg.tData (.ok (v :: ops))] }

/-- R201: a `READ` of any 1 .. 256 bytes at any address, against a target that acknowledges and delivers `d`. -/
def Obligations.ReadRun : Prop :=
  ∀ (s : State) (d : List Byte) (r : Request) (hs : List Request) (txs : List TxReply) (rxs : List RxEvent),
    s.busy = false → s.phase = .idle → s.session = .ready → s.env.resetLine = [] → r.op = 2 → s.env.host = r :: hs →
    s.cfg.opRead ∈ s.cmdSet → 1 ≤ r.args.len → r.args.len ≤ 256 → d.length = r.args.len →
    s.env.txReplies = .ok :: .ok :: .ok :: txs →
    s.env.rxEvents = [.bytes [0x79], .bytes [0x79], .bytes [0x79], .bytes d] ++ rxs →
    ∃ t, Runs 8 s t ∧
      { t with op := s.op, args := s.args, env := s.env, txBuf := s.txBuf } = { s with rdBuf := d, status := .ok } ∧
      t.env = { s.env with
        host := hs, txReplies := txs, rxEvents := rxs
        trace := s.env.trace ++ stageCalls s.cfg [s.cfg.opRead, s.cfg.opRead ^^^ 0xFF] s.cfg.tAck ++
          stageCalls s.cfg (withXor (addrBytes r.args.addr)) s.cfg.tAck ++
          stageCalls s.cfg [BitVec.ofNat 8 (d.length - 1), BitVec.ofNat 8 (d.length - 1) ^^^ 0xFF] s.cfg.tAck ++
          [.rx d.length s.cfg.tData (.ok d)] }

/-- R202: a `WRITE` of any 1 .. `FRAME_MAX` bytes at any address, against a target that acknowledges. -/
def Obligations.WriteRun : Prop :=
  ∀ (s : State) (r : Request) (hs : List Request) (txs : List TxReply) (rxs : List RxEvent),
    s.busy = false → s.phase = .idle → s.session = .ready → s.env.resetLine = [] → r.op = 3 → s.env.host = r :: hs →
    s.cfg.opWrite ∈ s.cmdSet → 1 ≤ r.args.len → r.args.len ≤ s.cfg.frameMax →
    s.env.txReplies = .ok :: .ok :: .ok :: txs →
    s.env.rxEvents = [.bytes [0x79], .bytes [0x79], .bytes [0x79]] ++ rxs →
    ∃ t, Runs 7 s t ∧
      { t with op := s.op, args := s.args, env := s.env, txBuf := s.txBuf } = { s with status := .ok } ∧
      t.env = { s.env with
        host := hs, txReplies := txs, rxEvents := rxs
        trace := s.env.trace ++ writeCalls s.cfg r.args.addr (r.args.data.toList.take r.args.len) }

/-- R203: an `ERASE` of any 1 .. 127 pages, against a target that acknowledges; the pages go out in the order given. -/
def Obligations.EraseRun : Prop :=
  ∀ (s : State) (r : Request) (hs : List Request) (txs : List TxReply) (rxs : List RxEvent),
    s.busy = false → s.phase = .idle → s.session = .ready → s.env.resetLine = [] → r.op = 4 → s.env.host = r :: hs →
    s.cfg.opErase ∈ s.cmdSet → 1 ≤ r.args.npages → r.args.npages ≤ 127 →
    s.env.txReplies = .ok :: .ok :: txs → s.env.rxEvents = [.bytes [0x79], .bytes [0x79]] ++ rxs →
    ∃ t, Runs 5 s t ∧
      { t with op := s.op, args := s.args, env := s.env, txBuf := s.txBuf } = { s with status := .ok } ∧
      t.env = { s.env with
        host := hs, txReplies := txs, rxEvents := rxs
        trace := s.env.trace ++ stageCalls s.cfg [s.cfg.opErase, s.cfg.opErase ^^^ 0xFF] s.cfg.tAck ++
          stageCalls s.cfg
            (withXor (BitVec.ofNat 8 (r.args.npages - 1) :: pageBytes (r.args.pages.toList.take r.args.npages)))
            s.cfg.tEraseAck }

/-- R204, R205: a `GO` to its operand, or a `GO_ENTRY` to the entry address, against a target that acknowledges: the session
is relinquished and everything else of it is kept. -/
def Obligations.GoRun : Prop :=
  ∀ (s : State) (a : Addr) (r : Request) (hs : List Request) (txs : List TxReply) (rxs : List RxEvent),
    s.busy = false → s.phase = .idle → s.session = .ready → s.env.resetLine = [] → s.env.host = r :: hs →
    ((r.op = 5 ∧ a = r.args.addr) ∨ (r.op = 6 ∧ s.entry = some a)) → (0x21 : Byte) ∈ s.cmdSet →
    s.env.txReplies = .ok :: .ok :: txs → s.env.rxEvents = [.bytes [0x79], .bytes [0x79]] ++ rxs →
    ∃ t, Runs 5 s t ∧
      { t with op := s.op, args := s.args, env := s.env, txBuf := s.txBuf } =
        { s with status := .ok, session := .relinquished } ∧
      t.env = { s.env with
        host := hs, txReplies := txs, rxEvents := rxs
        trace := s.env.trace ++ stageCalls s.cfg [0x21, 0xDE] s.cfg.tAck ++
          stageCalls s.cfg (withXor (addrBytes a)) s.cfg.tAck }

/-- R271 to R277: an `UPLOAD` of any sequence of `DATA`, `ELA` and `SLA` records closed by an `EOF` record, each line
ended by CR LF, against a target that acknowledges: it ends OK at the `EOF` line, makes exactly the writes the records
ask for, in file order, leaves `base_address` and the entry address as the last records set them, and never takes the
lines behind. -/
def Obligations.UploadWritesTheImage : Prop :=
  ∀ (s : State) (recs : List Instr) (ea : Half16) (ed : List Byte) (more : List LineEvent) (r : Request)
    (hs : List Request) (txs : List TxReply) (rxs : List RxEvent) (ws : List (Addr × List Byte)),
    s.cfg.Valid → s.busy = false → s.phase = .idle → s.session = .ready → s.env.resetLine = [] →
    r.op = 7 → s.env.host = r :: hs → s.cfg.opWrite ∈ s.cmdSet →
    (∀ i ∈ recs, i.wf s.cfg = true ∧ i.space = .hexLine ∧ ∀ a d, i ≠ .recEof a d) → ed.length ≤ 255 →
    r.lines = (recs ++ [Instr.recEof ea ed]).map (fun i => LineEvent.line (encode s.cfg i ++ [0x0D, 0x0A])) ++ more →
    ws = imageWrites s.cfg.chunk s.baseAddress recs →
    s.env.txReplies = List.replicate (3 * ws.length) .ok ++ txs →
    s.env.rxEvents = List.replicate (3 * ws.length) (.bytes [0x79]) ++ rxs →
    ∃ k t, Runs k s t ∧ t.status = .ok ∧ t.session = .ready ∧ t.busy = false ∧ t.phase = .idle ∧
      t.lineIndex = recs.length ∧ t.line = encode s.cfg (Instr.recEof ea ed) ∧ t.recValid = false ∧ t.cmdSet = s.cmdSet ∧
      t.baseAddress = imageBase s.baseAddress recs ∧ t.entry = imageEntry s.entry recs ∧
      t.getBuf = s.getBuf ∧ t.rdBuf = s.rdBuf ∧
      t.env = { s.env with
        host := hs, lines := more, txReplies := txs, rxEvents := rxs
        trace := s.env.trace ++ ws.flatMap fun w => writeCalls s.cfg w.1 w.2 }

/-! ### Invariants and rules of the whole machine -/

/-- The reset state meets the invariant. -/
def Obligations.ResetMeetsTheInvariant : Prop := EngineInv State.reset

/-- Every step keeps the invariant, from every state that meets it. -/
def Obligations.StepKeepsTheInvariant : Prop :=
  ∀ s t : State, EngineInv s → step s = .next t → EngineInv t

/-- From every state that meets the invariant the machine goes on: no step stops. -/
def Obligations.StepFromTheInvariantNeverStops : Prop :=
  ∀ s : State, EngineInv s → ∃ t, step s = .next t

/-- R171 (its rows 1, 3, 5 and 7 are the spec's decisions D13, D16, D18, D34): `session_state` changes only as the table
of the rule says (rows 1, 2, 3 and 4, 6), or by a reset; each with the other state the row writes. -/
def Obligations.SessionMovesAsTheTableSays : Prop :=
  ∀ s t : State, EngineInv s → NoReset s → step s = .next t → t.session ≠ s.session ∨ t.cmdSet ≠ s.cmdSet →
    (s.busy = false ∧ t.op = .handshake ∧ t.busy = true ∧ t.session = .uninitialized ∧ t.cmdSet = [] ∧
      t.baseAddress = 0 ∧ t.entry = none) ∨
    (s.session = .uninitialized ∧ s.phase = .hsCommit ∧ t.session = .ready ∧ t.status = .ok ∧
      t.cmdSet = s.getBuf.tail ∧ t.busy = false) ∨
    ((s.session = .uninitialized ∨ s.session = .ready) ∧ t.session = .faulted ∧ t.cmdSet = s.cmdSet ∧
      t.status ∈ [.transportError, .protocolNack, .protocolTimeout, .bufferTooSmall] ∧ t.busy = false) ∨
    (s.session = .ready ∧ s.phase = .goAddr .await ∧ t.session = .relinquished ∧ t.cmdSet = s.cmdSet ∧
      t.status = .ok ∧ t.busy = false)

/-- R309 (the spec's decision D16): out of `Faulted` and `Relinquished` there is no way but the acceptance of a
`HANDSHAKE` (or a reset), and until then no step makes a channel call. -/
def Obligations.OnlyHandshakeLeavesFaultedOrRelinquished : Prop :=
  ∀ s t : State, EngineInv s → NoReset s → (s.session = .faulted ∨ s.session = .relinquished) → step s = .next t →
    t.env.trace = s.env.trace ∧
    (t.session = s.session ∨
      ∃ r rest, s.env.host = r :: rest ∧ r.op = 0 ∧ t.op = .handshake ∧ t.session = .uninitialized)

/-- R76: the frames of one operation. An operation starts in the discipline, with nothing sent; every step of it keeps the
discipline; and under it a step that transmits when a frame of the operation has been sent before (the first write command of a
later record among them) does so only when the last channel call was the receive of an ACK. `n` is the length of the trace at
the acceptance. -/
def Obligations.LaterFramesFollowAnAcknowledge : Prop :=
  ∀ s t : State, EngineInv s → NoReset s → step s = .next t →
    (s.busy = false → t.busy = true → AckDiscipline s.env.trace.length t) ∧
    ∀ n ≤ s.env.trace.length, s.busy = true → AckDiscipline n s →
      AckDiscipline n t ∧
      (∀ f tm p, t.env.trace = s.env.trace ++ [.tx f tm p] → LaterFrame s ∨ SentSince n s → LastCallAcked s)

/-- R25, R26, R308: `base_address` and the entry address are written by the dispatch of `ELA` and `SLA` records, by the
acceptance of a `HANDSHAKE`, and by nothing else. -/
def Obligations.AddressRegistersWrittenByRecordsOnly : Prop :=
  ∀ s t : State, EngineInv s → NoReset s → step s = .next t →
    (t.baseAddress ≠ s.baseAddress →
      (s.busy = false ∧ t.op = .handshake ∧ t.baseAddress = 0) ∨
      (s.phase = .upDispatch ∧ ∃ d0 d1, s.recValid = true ∧ s.record.type = 0x04 ∧ s.record.data = [d0, d1] ∧
        t.baseAddress = elaBase d0 d1)) ∧
    (t.entry ≠ s.entry →
      (s.busy = false ∧ t.op = .handshake ∧ t.entry = none) ∨
      (s.phase = .upDispatch ∧ ∃ d0 d1 d2 d3, s.recValid = true ∧ s.record.type = 0x05 ∧
        s.record.data = [d0, d1, d2, d3] ∧
        t.entry = some (addrOf d0 d1 d2 d3)))

/-- R27, R302 (the spec's derivation from files 41 to 44): `status` is written at the end of an operation and nowhere
else, and an operation ends only in a kind its row of the table names. -/
def Obligations.OperationsEndInTheirKinds : Prop :=
  ∀ s t : State, EngineInv s → NoReset s → step s = .next t →
    (t.status ≠ s.status → t.busy = false ∧ t.phase = .idle) ∧
    (t.busy = false → s.busy = true ∨ s.env.host ≠ [] → t.status ∈ endKinds t.op)

/-- R90, R200: every transmit of every step is the encoding of the well-formed frame the phase executes, held in `tx_buf`, and
the command frame of a gated command is executed only while its opcode is in `cmd_set` and the session is `Ready`. -/
def Obligations.EveryTransmitIsAnAdmittedFrame : Prop :=
  ∀ (s t : State) (f : List Byte) (tm : Nat) (p : TxReply), EngineInv s → NoReset s → step s = .next t →
    t.env.trace = s.env.trace ++ [.tx f tm p] →
    ∃ i, s.fetch = .run i s ∧ isFrame i = true ∧ i.wf s.cfg = true ∧ f = encode s.cfg i ∧ t.txBuf = f ∧
      tm = s.cfg.tTx ∧ ∀ x, gatedFrame s.cfg i = some x → x ∈ s.cmdSet ∧ s.session = .ready

/-- A step makes at most one channel call, the trace only grows, and no step writes a parameter (00_scope.md R7). -/
def Obligations.StepMakesAtMostOneCall : Prop :=
  ∀ s t : State, step s = .next t →
    t.cfg = s.cfg ∧ ∃ calls : List ChanCall, calls.length ≤ 1 ∧ t.env.trace = s.env.trace ++ calls
end

