-- ==== Sys2Proof/Laws/PerInstr.lean ====
section
/-! SUPPORT. Statements made per instruction. `EncodedLength`: how many bytes each instruction has on the wire or in
the line (30_encoding.md R90, R105, R118). -/

namespace Sys2Proof.Laws.EncodedLength

/-- The length table of R90 (and R105 for a record: 11 characters and two for each data byte). -/
def wireLength : Instr → Nat
  | .handshake | .get | .read | .write | .erase | .go | .goEntry | .upload => 1
  | .sync => 1
  | .cmdGet | .cmdRead | .cmdWrite | .cmdErase | .cmdGo => 2
  | .addr _ => 5
  | .len _ => 2
  | .pay d => d.length + 2
  | .erasePay ps => 2 * ps.length + 2
  | .ack | .nack | .rspOther _ => 1
  | .getRsp _ ops => 1 + (ops.length + 1)
  | .rdData d => d.length
  | .recData _ d => 11 + 2 * d.length
  | .recEof _ d => 11 + 2 * d.length
  | .recEla _ _ _ => 11 + 2 * 2
  | .recSla _ _ _ _ _ => 11 + 2 * 4

/-- An instruction has the length its row of R90 gives. -/
def Statement (i : Instr) : Prop := ∀ cfg : Params, (encode cfg i).length = wireLength i

theorem length_pageBytes (ps : List Half16) : (pageBytes ps).length = 2 * ps.length := by
  induction ps with
  | nil => rfl
  | cons p ps ih => simp [pageBytes, bytes16] at ih ⊢; omega

theorem length_hexPairs (s : List Byte) : (s.flatMap hexPair).length = 2 * s.length := by
  induction s with
  | nil => rfl
  | cons b s ih => simp [hexPair] at ih ⊢; omega

theorem length_encodeRecord (a : Half16) (ty : Byte) (d : List Byte) :
    (encodeRecord a ty d).length = 11 + 2 * d.length := by
  rw [encodeRecord, List.length_cons, length_hexPairs]
  simp [recordBytes, bytes16]; omega

theorem handshake : Statement .handshake := fun _ => rfl
theorem get : Statement .get := fun _ => rfl
theorem read : Statement .read := fun _ => rfl
theorem write : Statement .write := fun _ => rfl
theorem erase : Statement .erase := fun _ => rfl
theorem go : Statement .go := fun _ => rfl
theorem goEntry : Statement .goEntry := fun _ => rfl
theorem upload : Statement .upload := fun _ => rfl
theorem sync : Statement .sync := fun _ => rfl
theorem cmdGet : Statement .cmdGet := fun _ => rfl
theorem cmdRead : Statement .cmdRead := fun _ => rfl
theorem cmdWrite : Statement .cmdWrite := fun _ => rfl
theorem cmdErase : Statement .cmdErase := fun _ => rfl
theorem cmdGo : Statement .cmdGo := fun _ => rfl
theorem ack : Statement .ack := fun _ => rfl
theorem nack : Statement .nack := fun _ => rfl
theorem addr (a : Addr) : Statement (.addr a) := fun _ => rfl
theorem len (n : Byte) : Statement (.len n) := fun _ => rfl
theorem rspOther (r : Byte) : Statement (.rspOther r) := fun _ => rfl
theorem pay (d : List Byte) : Statement (.pay d) := fun _ => by simp [encode, withXor, wireLength]
theorem erasePay (ps : List Half16) : Statement (.erasePay ps) := fun _ => by
  simp [encode, withXor, wireLength, length_pageBytes]
theorem getRsp (v : Byte) (ops : List Byte) : Statement (.getRsp v ops) := fun _ => by
  simp [encode, wireLength]; omega
theorem rdData (d : List Byte) : Statement (.rdData d) := fun _ => rfl
theorem recData (a : Half16) (d : List Byte) : Statement (.recData a d) := fun _ => length_encodeRecord a 0x00 d
theorem recEof (a : Half16) (d : List Byte) : Statement (.recEof a d) := fun _ => length_encodeRecord a 0x01 d
theorem recEla (a : Half16) (d0 d1 : Byte) : Statement (.recEla a d0 d1) := fun _ =>
  length_encodeRecord a 0x04 [d0, d1]
theorem recSla (a : Half16) (d0 d1 d2 d3 : Byte) : Statement (.recSla a d0 d1 d2 d3) := fun _ =>
  length_encodeRecord a 0x05 [d0, d1, d2, d3]

end Sys2Proof.Laws.EncodedLength
end

