-- ==== Sys2Proof/Laws/Decode.lean ====
section
/-! SUPPORT. The small laws of the byte computations: complements, XOR checksums, addresses and page numbers as bytes, hexadecimal
digits, and what a successful parse has checked. -/

namespace Sys2Proof

theorem countByte_toNat {n : Nat} (h1 : 1 ≤ n) (h2 : n ≤ 256) : (countByte n).toNat = n - 1 := by
  simp [countByte]; omega

theorem xor_complement (b : Byte) : b ^^^ (b ^^^ 0xFF) = 0xFF := by
  rw [← BitVec.xor_assoc, BitVec.xor_self, BitVec.zero_xor]

/-- Folding from any start is the XOR of the start and of the checksum. -/
theorem foldl_xor_start (s : List Byte) (a : Byte) : s.foldl (· ^^^ ·) a = a ^^^ xor8 s := by
  unfold xor8
  induction s generalizing a with
  | nil => simp
  | cons b s ih => simp only [List.foldl_cons]; rw [ih, ih (0 ^^^ b)]; simp [BitVec.xor_assoc]

theorem xor8_append (s t : List Byte) : xor8 (s ++ t) = xor8 s ^^^ xor8 t := by
  rw [xor8, List.foldl_append, foldl_xor_start]; rfl

theorem xor8_cons (b : Byte) (t : List Byte) : xor8 (b :: t) = b ^^^ xor8 t := by
  have := xor8_append [b] t
  simpa [xor8] using this

theorem xor8_single (b : Byte) : xor8 [b] = b := by simp [xor8]

theorem addrOf_bytes (a : Addr) : addrOf (a.extractLsb' 24 8) (a.extractLsb' 16 8) (a.extractLsb' 8 8) (a.extractLsb' 0 8) = a := by
  unfold addrOf
  apply BitVec.eq_of_getLsbD_eq
  intro i hi
  simp only [BitVec.getLsbD_or, BitVec.getLsbD_shiftLeft, BitVec.getLsbD_setWidth, BitVec.getLsbD_extractLsb']
  have : i < 8 ∨ (8 ≤ i ∧ i < 16) ∨ (16 ≤ i ∧ i < 24) ∨ (24 ≤ i) := by omega
  rcases this with h | h | h | h
  · simp [show i < 24 by omega, show i < 16 by omega, h, hi]
  · simp [show i < 24 by omega, show i < 16 by omega, show ¬ i < 8 by omega, show i - 8 < 8 by omega, hi, show 8 + (i-8) = i by omega]; try omega
  · simp [show i < 24 by omega, show ¬ i < 16 by omega, show ¬ i < 8 by omega, show ¬ i - 8 < 8 by omega, show i - 16 < 8 by omega, hi, show 16 + (i-16) = i by omega]; try omega
  · simp [show ¬ i < 24 by omega, show ¬ i < 16 by omega, show ¬ i < 8 by omega, show ¬ i - 8 < 8 by omega, show ¬ i - 16 < 8 by omega, show i - 24 < 8 by omega, hi, show 24 + (i-24) = i by omega]; try omega

theorem half16Of_bytes (p : Half16) : half16Of (p.extractLsb' 8 8) (p.extractLsb' 0 8) = p := by
  unfold half16Of
  apply BitVec.eq_of_getLsbD_eq
  intro i hi
  simp only [BitVec.getLsbD_or, BitVec.getLsbD_shiftLeft, BitVec.getLsbD_setWidth, BitVec.getLsbD_extractLsb']
  have : i < 8 ∨ (8 ≤ i ∧ i < 16) := by omega
  rcases this with h | h
  · simp [h, hi]
  · simp [show ¬ i < 8 by omega, show i - 8 < 8 by omega, hi, show 8 + (i-8) = i by omega]; try omega

theorem addrBytes_addrOf (b0 b1 b2 b3 : Byte) : addrBytes (addrOf b0 b1 b2 b3) = [b0,b1,b2,b3] := by
  have e : ∀ (k : Nat) (b : Byte), (∀ i, i < 8 → (addrOf b0 b1 b2 b3).getLsbD (k+i) = b.getLsbD i) → (addrOf b0 b1 b2 b3).extractLsb' k 8 = b := by
    intro k b h
    apply BitVec.eq_of_getLsbD_eq
    intro i hi
    simp [hi, h]
  unfold addrBytes
  rw [e 24 b0, e 16 b1, e 8 b2, e 0 b3] <;> intro i hi <;> unfold addrOf <;>
    simp only [BitVec.getLsbD_or, BitVec.getLsbD_shiftLeft, BitVec.getLsbD_setWidth]
  · simp [show i<32 by omega, show i<24 by omega, show i < 16 by omega, hi]
  · simp [show 8+i<32 by omega, show 8+i<24 by omega, show 8+i < 16 by omega, show ¬ 8+i<8 by omega]
    omega
  · simp [show 16+i<32 by omega, show 16+i<24 by omega, show ¬ 16+i < 16 by omega, show ¬ 16+i<8 by omega]
    rw [BitVec.getLsbD_of_ge b3 (16+i) (by omega), BitVec.getLsbD_of_ge b2 _ (by omega)]; simp; omega
  · simp [show 24+i<32 by omega, show ¬ 24+i<24 by omega, show ¬ 24+i < 16 by omega, show ¬ 24+i<8 by omega]
    rw [BitVec.getLsbD_of_ge b3 (24+i) (by omega), BitVec.getLsbD_of_ge b2 _ (by omega), BitVec.getLsbD_of_ge b1 _ (by omega)]; simp; omega

theorem bytes16_half16Of (h l : Byte) : bytes16 (half16Of h l) = [h,l] := by
  have e : ∀ (k : Nat) (b : Byte), (∀ i, i < 8 → (half16Of h l).getLsbD (k+i) = b.getLsbD i) → (half16Of h l).extractLsb' k 8 = b := by
    intro k b h
    apply BitVec.eq_of_getLsbD_eq
    intro i hi
    simp [hi, h]
  unfold bytes16
  rw [e 8 h, e 0 l] <;> intro i hi <;> unfold half16Of <;>
    simp only [BitVec.getLsbD_or, BitVec.getLsbD_shiftLeft, BitVec.getLsbD_setWidth]
  · simp [show i<16 by omega, hi]
  · simp [show 8+i<16 by omega, show ¬ 8+i<8 by omega]
    omega

theorem pagesOf_pageBytes (ps : List Half16) : pagesOf (pageBytes ps) = some ps := by
  induction ps with
  | nil => rfl
  | cons p ps ih =>
    have : pageBytes (p::ps) = p.extractLsb' 8 8 :: p.extractLsb' 0 8 :: pageBytes ps := rfl
    rw [this, pagesOf, ih]; simp [half16Of_bytes]

theorem pageBytes_pagesOf : ∀ (l : List Byte) (ps), pagesOf l = some ps → pageBytes ps = l
  | [], ps, h => by simp [pagesOf] at h; subst h; rfl
  | [_], ps, h => by simp [pagesOf] at h
  | a::b::l, ps, h => by
    simp [pagesOf] at h
    obtain ⟨qs, hq, rfl⟩ := h
    have := pageBytes_pagesOf l qs hq
    have e : pageBytes (half16Of a b :: qs) = bytes16 (half16Of a b) ++ pageBytes qs := rfl
    rw [e, bytes16_half16Of, this]; rfl

theorem byte_cases {P : Byte → Prop} (h : ∀ i : Fin 256, P (BitVec.ofFin i)) (b : Byte) : P b := by
  have := h b.toFin
  simpa using this

theorem hexDigit_high (b : Byte) : hexDigit (hexChar (b >>> 4)) = some (b >>> 4) := by
  revert b; apply byte_cases; set_option maxRecDepth 10000 in decide

theorem hexDigit_low (b : Byte) : hexDigit (hexChar (b &&& 0x0F)) = some (b &&& 0x0F) := by
  revert b; apply byte_cases; set_option maxRecDepth 10000 in decide

theorem nibbles_make_byte (b : Byte) : 16 * (b >>> 4) + (b &&& 0x0F) = b := by
  revert b; apply byte_cases; set_option maxRecDepth 10000 in decide

theorem complement_of_xor {x y : Byte} (h : x ^^^ y = 0xFF) : y = byteCompl x := by
  unfold byteCompl
  rw [← h, ← BitVec.xor_assoc, BitVec.xor_self, BitVec.zero_xor]

theorem hexBytes_length (chars : List Byte) : ∀ n k d, hexBytes chars k n = some d → d.length = n := by
  intro n
  induction n with
  | zero => intro k d h; simp [hexBytes] at h; subst h; rfl
  | succ n ih =>
    intro k d h
    simp only [hexBytes, Option.bind_eq_bind, Option.bind_eq_some_iff] at h
    obtain ⟨b, hb, rest, hr, h⟩ := h
    simp at h; subst h
    simp [ih _ _ hr]

theorem parse_ok_cases {chars : List Byte} {r : Record} (h : parse chars = .ok r) :
    ∃ bc ah al ty d ck, chars[0]? = some 0x3A ∧ hexByte chars 1 = some bc ∧ hexByte chars 3 = some ah ∧
      hexByte chars 5 = some al ∧ hexByte chars 7 = some ty ∧ 11 + 2 * bc.toNat ≤ chars.length ∧
      hexBytes chars 9 bc.toNat = some d ∧ hexByte chars (9 + 2 * bc.toNat) = some ck ∧
      d.length = bc.toNat ∧ parseChecked (half16Of ah al) ty d ck = .ok r := by
  unfold parse at h
  split at h
  · simp at h
  · rename_i h0
    split at h
    · simp at h
    · split at h
      · rename_i bc ah al ty e1 e3 e5 e7
        unfold parseBody at h
        split at h
        · simp at h
        · rename_i hl
          split at h
          · rename_i d ck ed ec
            exact ⟨bc, ah, al, ty, d, ck, by simpa using h0, e1, e3, e5, e7, by omega, ed, ec, hexBytes_length _ _ _ _ ed, h⟩
          · simp at h
      · simp at h

end Sys2Proof
end

