-- ==== Sys2Proof/Laws/State.lean ====
section
/-! SUPPORT. One lemma per field per named update of State, so that no later proof unfolds a record update. -/

namespace Sys2Proof.Machine

section
variable (s : State)

/-! ### `fail` -/

@[simp] theorem State.fail_session (k : Status) : (s.fail k).session = if k.faults then .faulted else s.session := rfl
@[simp] theorem State.fail_cmdSet (k : Status) : (s.fail k).cmdSet = s.cmdSet := rfl
@[simp] theorem State.fail_baseAddress (k : Status) : (s.fail k).baseAddress = s.baseAddress := rfl
@[simp] theorem State.fail_entry (k : Status) : (s.fail k).entry = s.entry := rfl
@[simp] theorem State.fail_status (k : Status) : (s.fail k).status = k := rfl
@[simp] theorem State.fail_getBuf (k : Status) : (s.fail k).getBuf = s.getBuf := rfl
@[simp] theorem State.fail_rdBuf (k : Status) : (s.fail k).rdBuf = s.rdBuf := rfl
@[simp] theorem State.fail_op (k : Status) : (s.fail k).op = s.op := rfl
@[simp] theorem State.fail_args (k : Status) : (s.fail k).args = s.args := rfl
@[simp] theorem State.fail_recValid (k : Status) : (s.fail k).recValid = s.recValid := rfl
@[simp] theorem State.fail_record (k : Status) : (s.fail k).record = s.record := rfl
@[simp] theorem State.fail_line (k : Status) : (s.fail k).line = s.line := rfl
@[simp] theorem State.fail_phase (k : Status) : (s.fail k).phase = .idle := rfl
@[simp] theorem State.fail_busy (k : Status) : (s.fail k).busy = false := rfl
@[simp] theorem State.fail_lineIndex (k : Status) : (s.fail k).lineIndex = s.lineIndex := rfl
@[simp] theorem State.fail_txBuf (k : Status) : (s.fail k).txBuf = s.txBuf := rfl
@[simp] theorem State.fail_chunkOff (k : Status) : (s.fail k).chunkOff = s.chunkOff := rfl
@[simp] theorem State.fail_cfg (k : Status) : (s.fail k).cfg = s.cfg := rfl
@[simp] theorem State.fail_env (k : Status) : (s.fail k).env = s.env := rfl
@[simp] theorem State.fail_freeCtr (k : Status) : (s.fail k).freeCtr = s.freeCtr := rfl

/-! ### `stageFails` -/

@[simp] theorem State.stageFails_session (k : Status) : (s.stageFails k).session = if k.faults then .faulted else s.session := rfl
@[simp] theorem State.stageFails_cmdSet (k : Status) : (s.stageFails k).cmdSet = s.cmdSet := rfl
@[simp] theorem State.stageFails_baseAddress (k : Status) : (s.stageFails k).baseAddress = s.baseAddress := rfl
@[simp] theorem State.stageFails_entry (k : Status) : (s.stageFails k).entry = s.entry := rfl
@[simp] theorem State.stageFails_status (k : Status) : (s.stageFails k).status = k := rfl
@[simp] theorem State.stageFails_getBuf (k : Status) : (s.stageFails k).getBuf = s.getBuf := rfl
@[simp] theorem State.stageFails_rdBuf (k : Status) : (s.stageFails k).rdBuf = s.rdBuf := rfl
@[simp] theorem State.stageFails_op (k : Status) : (s.stageFails k).op = s.op := rfl
@[simp] theorem State.stageFails_args (k : Status) : (s.stageFails k).args = s.args := rfl
@[simp] theorem State.stageFails_recValid (k : Status) : (s.stageFails k).recValid = if s.op = .upload then false else s.recValid := rfl
@[simp] theorem State.stageFails_record (k : Status) : (s.stageFails k).record = s.record := rfl
@[simp] theorem State.stageFails_line (k : Status) : (s.stageFails k).line = s.line := rfl
@[simp] theorem State.stageFails_phase (k : Status) : (s.stageFails k).phase = .idle := rfl
@[simp] theorem State.stageFails_busy (k : Status) : (s.stageFails k).busy = false := rfl
@[simp] theorem State.stageFails_lineIndex (k : Status) : (s.stageFails k).lineIndex = s.lineIndex := rfl
@[simp] theorem State.stageFails_txBuf (k : Status) : (s.stageFails k).txBuf = s.txBuf := rfl
@[simp] theorem State.stageFails_chunkOff (k : Status) : (s.stageFails k).chunkOff = s.chunkOff := rfl
@[simp] theorem State.stageFails_cfg (k : Status) : (s.stageFails k).cfg = s.cfg := rfl
@[simp] theorem State.stageFails_env (k : Status) : (s.stageFails k).env = s.env := rfl
@[simp] theorem State.stageFails_freeCtr (k : Status) : (s.stageFails k).freeCtr = s.freeCtr := rfl

/-! ### `done` -/

@[simp] theorem State.done_session  : (s.done).session = s.session := rfl
@[simp] theorem State.done_cmdSet  : (s.done).cmdSet = s.cmdSet := rfl
@[simp] theorem State.done_baseAddress  : (s.done).baseAddress = s.baseAddress := rfl
@[simp] theorem State.done_entry  : (s.done).entry = s.entry := rfl
@[simp] theorem State.done_status  : (s.done).status = .ok := rfl
@[simp] theorem State.done_getBuf  : (s.done).getBuf = s.getBuf := rfl
@[simp] theorem State.done_rdBuf  : (s.done).rdBuf = s.rdBuf := rfl
@[simp] theorem State.done_op  : (s.done).op = s.op := rfl
@[simp] theorem State.done_args  : (s.done).args = s.args := rfl
@[simp] theorem State.done_recValid  : (s.done).recValid = s.recValid := rfl
@[simp] theorem State.done_record  : (s.done).record = s.record := rfl
@[simp] theorem State.done_line  : (s.done).line = s.line := rfl
@[simp] theorem State.done_phase  : (s.done).phase = .idle := rfl
@[simp] theorem State.done_busy  : (s.done).busy = false := rfl
@[simp] theorem State.done_lineIndex  : (s.done).lineIndex = s.lineIndex := rfl
@[simp] theorem State.done_txBuf  : (s.done).txBuf = s.txBuf := rfl
@[simp] theorem State.done_chunkOff  : (s.done).chunkOff = s.chunkOff := rfl
@[simp] theorem State.done_cfg  : (s.done).cfg = s.cfg := rfl
@[simp] theorem State.done_env  : (s.done).env = s.env := rfl
@[simp] theorem State.done_freeCtr  : (s.done).freeCtr = s.freeCtr := rfl

/-! ### `latch` -/

@[simp] theorem State.latch_session (r : Request) (rest : List Request) : (s.latch r rest).session = s.session := rfl
@[simp] theorem State.latch_cmdSet (r : Request) (rest : List Request) : (s.latch r rest).cmdSet = s.cmdSet := rfl
@[simp] theorem State.latch_baseAddress (r : Request) (rest : List Request) : (s.latch r rest).baseAddress = s.baseAddress := rfl
@[simp] theorem State.latch_entry (r : Request) (rest : List Request) : (s.latch r rest).entry = s.entry := rfl
@[simp] theorem State.latch_status (r : Request) (rest : List Request) : (s.latch r rest).status = s.status := rfl
@[simp] theorem State.latch_getBuf (r : Request) (rest : List Request) : (s.latch r rest).getBuf = s.getBuf := rfl
@[simp] theorem State.latch_rdBuf (r : Request) (rest : List Request) : (s.latch r rest).rdBuf = s.rdBuf := rfl
@[simp] theorem State.latch_op (r : Request) (rest : List Request) : (s.latch r rest).op = s.op := rfl
@[simp] theorem State.latch_args (r : Request) (rest : List Request) : (s.latch r rest).args = r.args := rfl
@[simp] theorem State.latch_recValid (r : Request) (rest : List Request) : (s.latch r rest).recValid = s.recValid := rfl
@[simp] theorem State.latch_record (r : Request) (rest : List Request) : (s.latch r rest).record = s.record := rfl
@[simp] theorem State.latch_line (r : Request) (rest : List Request) : (s.latch r rest).line = s.line := rfl
@[simp] theorem State.latch_phase (r : Request) (rest : List Request) : (s.latch r rest).phase = s.phase := rfl
@[simp] theorem State.latch_busy (r : Request) (rest : List Request) : (s.latch r rest).busy = s.busy := rfl
@[simp] theorem State.latch_lineIndex (r : Request) (rest : List Request) : (s.latch r rest).lineIndex = s.lineIndex := rfl
@[simp] theorem State.latch_txBuf (r : Request) (rest : List Request) : (s.latch r rest).txBuf = s.txBuf := rfl
@[simp] theorem State.latch_chunkOff (r : Request) (rest : List Request) : (s.latch r rest).chunkOff = s.chunkOff := rfl
@[simp] theorem State.latch_cfg (r : Request) (rest : List Request) : (s.latch r rest).cfg = s.cfg := rfl
@[simp] theorem State.latch_env (r : Request) (rest : List Request) : (s.latch r rest).env = { s.env with host := rest, lines := if opOfCode r.op = .upload then r.lines else s.env.lines } := rfl
@[simp] theorem State.latch_freeCtr (r : Request) (rest : List Request) : (s.latch r rest).freeCtr = s.freeCtr := rfl

/-! ### `beginGet` -/

@[simp] theorem State.beginGet_session  : (s.beginGet).session = s.session := rfl
@[simp] theorem State.beginGet_cmdSet  : (s.beginGet).cmdSet = s.cmdSet := rfl
@[simp] theorem State.beginGet_baseAddress  : (s.beginGet).baseAddress = s.baseAddress := rfl
@[simp] theorem State.beginGet_entry  : (s.beginGet).entry = s.entry := rfl
@[simp] theorem State.beginGet_status  : (s.beginGet).status = s.status := rfl
@[simp] theorem State.beginGet_getBuf  : (s.beginGet).getBuf = [] := rfl
@[simp] theorem State.beginGet_rdBuf  : (s.beginGet).rdBuf = s.rdBuf := rfl
@[simp] theorem State.beginGet_op  : (s.beginGet).op = s.op := rfl
@[simp] theorem State.beginGet_args  : (s.beginGet).args = s.args := rfl
@[simp] theorem State.beginGet_recValid  : (s.beginGet).recValid = s.recValid := rfl
@[simp] theorem State.beginGet_record  : (s.beginGet).record = s.record := rfl
@[simp] theorem State.beginGet_line  : (s.beginGet).line = s.line := rfl
@[simp] theorem State.beginGet_phase  : (s.beginGet).phase = .getCmd .send := rfl
@[simp] theorem State.beginGet_busy  : (s.beginGet).busy = s.busy := rfl
@[simp] theorem State.beginGet_lineIndex  : (s.beginGet).lineIndex = s.lineIndex := rfl
@[simp] theorem State.beginGet_txBuf  : (s.beginGet).txBuf = s.txBuf := rfl
@[simp] theorem State.beginGet_chunkOff  : (s.beginGet).chunkOff = s.chunkOff := rfl
@[simp] theorem State.beginGet_cfg  : (s.beginGet).cfg = s.cfg := rfl
@[simp] theorem State.beginGet_env  : (s.beginGet).env = s.env := rfl
@[simp] theorem State.beginGet_freeCtr  : (s.beginGet).freeCtr = s.freeCtr := rfl

/-! ### `commit` -/

@[simp] theorem State.commit_session  : (s.commit).session = .ready := rfl
@[simp] theorem State.commit_cmdSet  : (s.commit).cmdSet = s.getBuf.tail := rfl
@[simp] theorem State.commit_baseAddress  : (s.commit).baseAddress = s.baseAddress := rfl
@[simp] theorem State.commit_entry  : (s.commit).entry = s.entry := rfl
@[simp] theorem State.commit_status  : (s.commit).status = .ok := rfl
@[simp] theorem State.commit_getBuf  : (s.commit).getBuf = s.getBuf := rfl
@[simp] theorem State.commit_rdBuf  : (s.commit).rdBuf = s.rdBuf := rfl
@[simp] theorem State.commit_op  : (s.commit).op = s.op := rfl
@[simp] theorem State.commit_args  : (s.commit).args = s.args := rfl
@[simp] theorem State.commit_recValid  : (s.commit).recValid = s.recValid := rfl
@[simp] theorem State.commit_record  : (s.commit).record = s.record := rfl
@[simp] theorem State.commit_line  : (s.commit).line = s.line := rfl
@[simp] theorem State.commit_phase  : (s.commit).phase = .idle := rfl
@[simp] theorem State.commit_busy  : (s.commit).busy = false := rfl
@[simp] theorem State.commit_lineIndex  : (s.commit).lineIndex = s.lineIndex := rfl
@[simp] theorem State.commit_txBuf  : (s.commit).txBuf = s.txBuf := rfl
@[simp] theorem State.commit_chunkOff  : (s.commit).chunkOff = s.chunkOff := rfl
@[simp] theorem State.commit_cfg  : (s.commit).cfg = s.cfg := rfl
@[simp] theorem State.commit_env  : (s.commit).env = s.env := rfl
@[simp] theorem State.commit_freeCtr  : (s.commit).freeCtr = s.freeCtr := rfl

/-! ### `relinquish` -/

@[simp] theorem State.relinquish_session  : (s.relinquish).session = .relinquished := rfl
@[simp] theorem State.relinquish_cmdSet  : (s.relinquish).cmdSet = s.cmdSet := rfl
@[simp] theorem State.relinquish_baseAddress  : (s.relinquish).baseAddress = s.baseAddress := rfl
@[simp] theorem State.relinquish_entry  : (s.relinquish).entry = s.entry := rfl
@[simp] theorem State.relinquish_status  : (s.relinquish).status = .ok := rfl
@[simp] theorem State.relinquish_getBuf  : (s.relinquish).getBuf = s.getBuf := rfl
@[simp] theorem State.relinquish_rdBuf  : (s.relinquish).rdBuf = s.rdBuf := rfl
@[simp] theorem State.relinquish_op  : (s.relinquish).op = s.op := rfl
@[simp] theorem State.relinquish_args  : (s.relinquish).args = s.args := rfl
@[simp] theorem State.relinquish_recValid  : (s.relinquish).recValid = s.recValid := rfl
@[simp] theorem State.relinquish_record  : (s.relinquish).record = s.record := rfl
@[simp] theorem State.relinquish_line  : (s.relinquish).line = s.line := rfl
@[simp] theorem State.relinquish_phase  : (s.relinquish).phase = .idle := rfl
@[simp] theorem State.relinquish_busy  : (s.relinquish).busy = false := rfl
@[simp] theorem State.relinquish_lineIndex  : (s.relinquish).lineIndex = s.lineIndex := rfl
@[simp] theorem State.relinquish_txBuf  : (s.relinquish).txBuf = s.txBuf := rfl
@[simp] theorem State.relinquish_chunkOff  : (s.relinquish).chunkOff = s.chunkOff := rfl
@[simp] theorem State.relinquish_cfg  : (s.relinquish).cfg = s.cfg := rfl
@[simp] theorem State.relinquish_env  : (s.relinquish).env = s.env := rfl
@[simp] theorem State.relinquish_freeCtr  : (s.relinquish).freeCtr = s.freeCtr := rfl

/-! ### `endDispatch` -/

@[simp] theorem State.endDispatch_session  : (s.endDispatch).session = s.session := rfl
@[simp] theorem State.endDispatch_cmdSet  : (s.endDispatch).cmdSet = s.cmdSet := rfl
@[simp] theorem State.endDispatch_baseAddress  : (s.endDispatch).baseAddress = s.baseAddress := rfl
@[simp] theorem State.endDispatch_entry  : (s.endDispatch).entry = s.entry := rfl
@[simp] theorem State.endDispatch_status  : (s.endDispatch).status = s.status := rfl
@[simp] theorem State.endDispatch_getBuf  : (s.endDispatch).getBuf = s.getBuf := rfl
@[simp] theorem State.endDispatch_rdBuf  : (s.endDispatch).rdBuf = s.rdBuf := rfl
@[simp] theorem State.endDispatch_op  : (s.endDispatch).op = s.op := rfl
@[simp] theorem State.endDispatch_args  : (s.endDispatch).args = s.args := rfl
@[simp] theorem State.endDispatch_recValid  : (s.endDispatch).recValid = false := rfl
@[simp] theorem State.endDispatch_record  : (s.endDispatch).record = s.record := rfl
@[simp] theorem State.endDispatch_line  : (s.endDispatch).line = s.line := rfl
@[simp] theorem State.endDispatch_phase  : (s.endDispatch).phase = .upNext := rfl
@[simp] theorem State.endDispatch_busy  : (s.endDispatch).busy = s.busy := rfl
@[simp] theorem State.endDispatch_lineIndex  : (s.endDispatch).lineIndex = s.lineIndex + 1 := rfl
@[simp] theorem State.endDispatch_txBuf  : (s.endDispatch).txBuf = s.txBuf := rfl
@[simp] theorem State.endDispatch_chunkOff  : (s.endDispatch).chunkOff = s.chunkOff := rfl
@[simp] theorem State.endDispatch_cfg  : (s.endDispatch).cfg = s.cfg := rfl
@[simp] theorem State.endDispatch_env  : (s.endDispatch).env = s.env := rfl
@[simp] theorem State.endDispatch_freeCtr  : (s.endDispatch).freeCtr = s.freeCtr := rfl

/-! ### `stripLine` -/

@[simp] theorem State.stripLine_session  : (s.stripLine).session = s.session := rfl
@[simp] theorem State.stripLine_cmdSet  : (s.stripLine).cmdSet = s.cmdSet := rfl
@[simp] theorem State.stripLine_baseAddress  : (s.stripLine).baseAddress = s.baseAddress := rfl
@[simp] theorem State.stripLine_entry  : (s.stripLine).entry = s.entry := rfl
@[simp] theorem State.stripLine_status  : (s.stripLine).status = s.status := rfl
@[simp] theorem State.stripLine_getBuf  : (s.stripLine).getBuf = s.getBuf := rfl
@[simp] theorem State.stripLine_rdBuf  : (s.stripLine).rdBuf = s.rdBuf := rfl
@[simp] theorem State.stripLine_op  : (s.stripLine).op = s.op := rfl
@[simp] theorem State.stripLine_args  : (s.stripLine).args = s.args := rfl
@[simp] theorem State.stripLine_recValid  : (s.stripLine).recValid = s.recValid := rfl
@[simp] theorem State.stripLine_record  : (s.stripLine).record = s.record := rfl
@[simp] theorem State.stripLine_line  : (s.stripLine).line = strip s.line := rfl
@[simp] theorem State.stripLine_phase  : (s.stripLine).phase = .upParse := rfl
@[simp] theorem State.stripLine_busy  : (s.stripLine).busy = s.busy := rfl
@[simp] theorem State.stripLine_lineIndex  : (s.stripLine).lineIndex = s.lineIndex := rfl
@[simp] theorem State.stripLine_txBuf  : (s.stripLine).txBuf = s.txBuf := rfl
@[simp] theorem State.stripLine_chunkOff  : (s.stripLine).chunkOff = s.chunkOff := rfl
@[simp] theorem State.stripLine_cfg  : (s.stripLine).cfg = s.cfg := rfl
@[simp] theorem State.stripLine_env  : (s.stripLine).env = s.env := rfl
@[simp] theorem State.stripLine_freeCtr  : (s.stripLine).freeCtr = s.freeCtr := rfl

/-! ### `resetNow` -/

@[simp] theorem State.resetNow_session  : (s.resetNow).session = State.reset.session := rfl
@[simp] theorem State.resetNow_cmdSet  : (s.resetNow).cmdSet = State.reset.cmdSet := rfl
@[simp] theorem State.resetNow_baseAddress  : (s.resetNow).baseAddress = State.reset.baseAddress := rfl
@[simp] theorem State.resetNow_entry  : (s.resetNow).entry = State.reset.entry := rfl
@[simp] theorem State.resetNow_status  : (s.resetNow).status = State.reset.status := rfl
@[simp] theorem State.resetNow_getBuf  : (s.resetNow).getBuf = State.reset.getBuf := rfl
@[simp] theorem State.resetNow_rdBuf  : (s.resetNow).rdBuf = State.reset.rdBuf := rfl
@[simp] theorem State.resetNow_op  : (s.resetNow).op = State.reset.op := rfl
@[simp] theorem State.resetNow_args  : (s.resetNow).args = State.reset.args := rfl
@[simp] theorem State.resetNow_recValid  : (s.resetNow).recValid = State.reset.recValid := rfl
@[simp] theorem State.resetNow_record  : (s.resetNow).record = State.reset.record := rfl
@[simp] theorem State.resetNow_line  : (s.resetNow).line = State.reset.line := rfl
@[simp] theorem State.resetNow_phase  : (s.resetNow).phase = State.reset.phase := rfl
@[simp] theorem State.resetNow_busy  : (s.resetNow).busy = State.reset.busy := rfl
@[simp] theorem State.resetNow_lineIndex  : (s.resetNow).lineIndex = State.reset.lineIndex := rfl
@[simp] theorem State.resetNow_txBuf  : (s.resetNow).txBuf = State.reset.txBuf := rfl
@[simp] theorem State.resetNow_chunkOff  : (s.resetNow).chunkOff = State.reset.chunkOff := rfl
@[simp] theorem State.resetNow_cfg  : (s.resetNow).cfg = s.cfg := rfl
@[simp] theorem State.resetNow_env  : (s.resetNow).env = s.env := rfl
@[simp] theorem State.resetNow_freeCtr  : (s.resetNow).freeCtr = s.freeCtr := rfl

/-! ### `inside` -/

@[simp] theorem State.inside_session (o : Op) (p : Phase) : (s.inside o p).session = s.session := rfl
@[simp] theorem State.inside_cmdSet (o : Op) (p : Phase) : (s.inside o p).cmdSet = s.cmdSet := rfl
@[simp] theorem State.inside_baseAddress (o : Op) (p : Phase) : (s.inside o p).baseAddress = s.baseAddress := rfl
@[simp] theorem State.inside_entry (o : Op) (p : Phase) : (s.inside o p).entry = s.entry := rfl
@[simp] theorem State.inside_status (o : Op) (p : Phase) : (s.inside o p).status = s.status := rfl
@[simp] theorem State.inside_getBuf (o : Op) (p : Phase) : (s.inside o p).getBuf = s.getBuf := rfl
@[simp] theorem State.inside_rdBuf (o : Op) (p : Phase) : (s.inside o p).rdBuf = s.rdBuf := rfl
@[simp] theorem State.inside_op (o : Op) (p : Phase) : (s.inside o p).op = o := rfl
@[simp] theorem State.inside_args (o : Op) (p : Phase) : (s.inside o p).args = s.args := rfl
@[simp] theorem State.inside_recValid (o : Op) (p : Phase) : (s.inside o p).recValid = s.recValid := rfl
@[simp] theorem State.inside_record (o : Op) (p : Phase) : (s.inside o p).record = s.record := rfl
@[simp] theorem State.inside_line (o : Op) (p : Phase) : (s.inside o p).line = s.line := rfl
@[simp] theorem State.inside_phase (o : Op) (p : Phase) : (s.inside o p).phase = p := rfl
@[simp] theorem State.inside_busy (o : Op) (p : Phase) : (s.inside o p).busy = true := rfl
@[simp] theorem State.inside_lineIndex (o : Op) (p : Phase) : (s.inside o p).lineIndex = s.lineIndex := rfl
@[simp] theorem State.inside_txBuf (o : Op) (p : Phase) : (s.inside o p).txBuf = s.txBuf := rfl
@[simp] theorem State.inside_chunkOff (o : Op) (p : Phase) : (s.inside o p).chunkOff = s.chunkOff := rfl
@[simp] theorem State.inside_cfg (o : Op) (p : Phase) : (s.inside o p).cfg = s.cfg := rfl
@[simp] theorem State.inside_env (o : Op) (p : Phase) : (s.inside o p).env = s.env := rfl
@[simp] theorem State.inside_freeCtr (o : Op) (p : Phase) : (s.inside o p).freeCtr = s.freeCtr := rfl

/-! ### The channel: what an answered call leaves alone -/

@[simp] theorem State.afterTxReply_session  : (s.afterTxReply).session = s.session := by unfold State.afterTxReply; split <;> rfl
@[simp] theorem State.afterTxReply_cmdSet  : (s.afterTxReply).cmdSet = s.cmdSet := by unfold State.afterTxReply; split <;> rfl
@[simp] theorem State.afterTxReply_baseAddress  : (s.afterTxReply).baseAddress = s.baseAddress := by unfold State.afterTxReply; split <;> rfl
@[simp] theorem State.afterTxReply_entry  : (s.afterTxReply).entry = s.entry := by unfold State.afterTxReply; split <;> rfl
@[simp] theorem State.afterTxReply_status  : (s.afterTxReply).status = s.status := by unfold State.afterTxReply; split <;> rfl
@[simp] theorem State.afterTxReply_getBuf  : (s.afterTxReply).getBuf = s.getBuf := by unfold State.afterTxReply; split <;> rfl
@[simp] theorem State.afterTxReply_rdBuf  : (s.afterTxReply).rdBuf = s.rdBuf := by unfold State.afterTxReply; split <;> rfl
@[simp] theorem State.afterTxReply_op  : (s.afterTxReply).op = s.op := by unfold State.afterTxReply; split <;> rfl
@[simp] theorem State.afterTxReply_args  : (s.afterTxReply).args = s.args := by unfold State.afterTxReply; split <;> rfl
@[simp] theorem State.afterTxReply_recValid  : (s.afterTxReply).recValid = s.recValid := by unfold State.afterTxReply; split <;> rfl
@[simp] theorem State.afterTxReply_record  : (s.afterTxReply).record = s.record := by unfold State.afterTxReply; split <;> rfl
@[simp] theorem State.afterTxReply_line  : (s.afterTxReply).line = s.line := by unfold State.afterTxReply; split <;> rfl
@[simp] theorem State.afterTxReply_phase  : (s.afterTxReply).phase = s.phase := by unfold State.afterTxReply; split <;> rfl
@[simp] theorem State.afterTxReply_busy  : (s.afterTxReply).busy = s.busy := by unfold State.afterTxReply; split <;> rfl
@[simp] theorem State.afterTxReply_lineIndex  : (s.afterTxReply).lineIndex = s.lineIndex := by unfold State.afterTxReply; split <;> rfl
@[simp] theorem State.afterTxReply_txBuf  : (s.afterTxReply).txBuf = s.txBuf := by unfold State.afterTxReply; split <;> rfl
@[simp] theorem State.afterTxReply_chunkOff  : (s.afterTxReply).chunkOff = s.chunkOff := by unfold State.afterTxReply; split <;> rfl
@[simp] theorem State.afterTxReply_cfg  : (s.afterTxReply).cfg = s.cfg := by unfold State.afterTxReply; split <;> rfl

@[simp] theorem State.afterRxReply_session (n : Nat) : (s.afterRxReply n).session = s.session := by unfold State.afterRxReply; split <;> rfl
@[simp] theorem State.afterRxReply_cmdSet (n : Nat) : (s.afterRxReply n).cmdSet = s.cmdSet := by unfold State.afterRxReply; split <;> rfl
@[simp] theorem State.afterRxReply_baseAddress (n : Nat) : (s.afterRxReply n).baseAddress = s.baseAddress := by unfold State.afterRxReply; split <;> rfl
@[simp] theorem State.afterRxReply_entry (n : Nat) : (s.afterRxReply n).entry = s.entry := by unfold State.afterRxReply; split <;> rfl
@[simp] theorem State.afterRxReply_status (n : Nat) : (s.afterRxReply n).status = s.status := by unfold State.afterRxReply; split <;> rfl
@[simp] theorem State.afterRxReply_getBuf (n : Nat) : (s.afterRxReply n).getBuf = s.getBuf := by unfold State.afterRxReply; split <;> rfl
@[simp] theorem State.afterRxReply_rdBuf (n : Nat) : (s.afterRxReply n).rdBuf = s.rdBuf := by unfold State.afterRxReply; split <;> rfl
@[simp] theorem State.afterRxReply_op (n : Nat) : (s.afterRxReply n).op = s.op := by unfold State.afterRxReply; split <;> rfl
@[simp] theorem State.afterRxReply_args (n : Nat) : (s.afterRxReply n).args = s.args := by unfold State.afterRxReply; split <;> rfl
@[simp] theorem State.afterRxReply_recValid (n : Nat) : (s.afterRxReply n).recValid = s.recValid := by unfold State.afterRxReply; split <;> rfl
@[simp] theorem State.afterRxReply_record (n : Nat) : (s.afterRxReply n).record = s.record := by unfold State.afterRxReply; split <;> rfl
@[simp] theorem State.afterRxReply_line (n : Nat) : (s.afterRxReply n).line = s.line := by unfold State.afterRxReply; split <;> rfl
@[simp] theorem State.afterRxReply_phase (n : Nat) : (s.afterRxReply n).phase = s.phase := by unfold State.afterRxReply; split <;> rfl
@[simp] theorem State.afterRxReply_busy (n : Nat) : (s.afterRxReply n).busy = s.busy := by unfold State.afterRxReply; split <;> rfl
@[simp] theorem State.afterRxReply_lineIndex (n : Nat) : (s.afterRxReply n).lineIndex = s.lineIndex := by unfold State.afterRxReply; split <;> rfl
@[simp] theorem State.afterRxReply_txBuf (n : Nat) : (s.afterRxReply n).txBuf = s.txBuf := by unfold State.afterRxReply; split <;> rfl
@[simp] theorem State.afterRxReply_chunkOff (n : Nat) : (s.afterRxReply n).chunkOff = s.chunkOff := by unfold State.afterRxReply; split <;> rfl
@[simp] theorem State.afterRxReply_cfg (n : Nat) : (s.afterRxReply n).cfg = s.cfg := by unfold State.afterRxReply; split <;> rfl

@[simp] theorem State.tx_session (f : List Byte) : (s.tx f).session = s.session := by simp [State.tx]
@[simp] theorem State.tx_cmdSet (f : List Byte) : (s.tx f).cmdSet = s.cmdSet := by simp [State.tx]
@[simp] theorem State.tx_baseAddress (f : List Byte) : (s.tx f).baseAddress = s.baseAddress := by simp [State.tx]
@[simp] theorem State.tx_entry (f : List Byte) : (s.tx f).entry = s.entry := by simp [State.tx]
@[simp] theorem State.tx_status (f : List Byte) : (s.tx f).status = s.status := by simp [State.tx]
@[simp] theorem State.tx_getBuf (f : List Byte) : (s.tx f).getBuf = s.getBuf := by simp [State.tx]
@[simp] theorem State.tx_rdBuf (f : List Byte) : (s.tx f).rdBuf = s.rdBuf := by simp [State.tx]
@[simp] theorem State.tx_op (f : List Byte) : (s.tx f).op = s.op := by simp [State.tx]
@[simp] theorem State.tx_args (f : List Byte) : (s.tx f).args = s.args := by simp [State.tx]
@[simp] theorem State.tx_recValid (f : List Byte) : (s.tx f).recValid = s.recValid := by simp [State.tx]
@[simp] theorem State.tx_record (f : List Byte) : (s.tx f).record = s.record := by simp [State.tx]
@[simp] theorem State.tx_line (f : List Byte) : (s.tx f).line = s.line := by simp [State.tx]
@[simp] theorem State.tx_phase (f : List Byte) : (s.tx f).phase = s.phase := by simp [State.tx]
@[simp] theorem State.tx_busy (f : List Byte) : (s.tx f).busy = s.busy := by simp [State.tx]
@[simp] theorem State.tx_lineIndex (f : List Byte) : (s.tx f).lineIndex = s.lineIndex := by simp [State.tx]
@[simp] theorem State.tx_txBuf (f : List Byte) : (s.tx f).txBuf = f := by simp [State.tx]
@[simp] theorem State.tx_chunkOff (f : List Byte) : (s.tx f).chunkOff = s.chunkOff := by simp [State.tx]
@[simp] theorem State.tx_cfg (f : List Byte) : (s.tx f).cfg = s.cfg := by simp [State.tx]

@[simp] theorem State.rx_session (n t : Nat) : (s.rx n t).session = s.session := by simp [State.rx]
@[simp] theorem State.rx_cmdSet (n t : Nat) : (s.rx n t).cmdSet = s.cmdSet := by simp [State.rx]
@[simp] theorem State.rx_baseAddress (n t : Nat) : (s.rx n t).baseAddress = s.baseAddress := by simp [State.rx]
@[simp] theorem State.rx_entry (n t : Nat) : (s.rx n t).entry = s.entry := by simp [State.rx]
@[simp] theorem State.rx_status (n t : Nat) : (s.rx n t).status = s.status := by simp [State.rx]
@[simp] theorem State.rx_getBuf (n t : Nat) : (s.rx n t).getBuf = s.getBuf := by simp [State.rx]
@[simp] theorem State.rx_rdBuf (n t : Nat) : (s.rx n t).rdBuf = s.rdBuf := by simp [State.rx]
@[simp] theorem State.rx_op (n t : Nat) : (s.rx n t).op = s.op := by simp [State.rx]
@[simp] theorem State.rx_args (n t : Nat) : (s.rx n t).args = s.args := by simp [State.rx]
@[simp] theorem State.rx_recValid (n t : Nat) : (s.rx n t).recValid = s.recValid := by simp [State.rx]
@[simp] theorem State.rx_record (n t : Nat) : (s.rx n t).record = s.record := by simp [State.rx]
@[simp] theorem State.rx_line (n t : Nat) : (s.rx n t).line = s.line := by simp [State.rx]
@[simp] theorem State.rx_phase (n t : Nat) : (s.rx n t).phase = s.phase := by simp [State.rx]
@[simp] theorem State.rx_busy (n t : Nat) : (s.rx n t).busy = s.busy := by simp [State.rx]
@[simp] theorem State.rx_lineIndex (n t : Nat) : (s.rx n t).lineIndex = s.lineIndex := by simp [State.rx]
@[simp] theorem State.rx_txBuf (n t : Nat) : (s.rx n t).txBuf = s.txBuf := by simp [State.rx]
@[simp] theorem State.rx_chunkOff (n t : Nat) : (s.rx n t).chunkOff = s.chunkOff := by simp [State.rx]
@[simp] theorem State.rx_cfg (n t : Nat) : (s.rx n t).cfg = s.cfg := by simp [State.rx]

end

end Sys2Proof.Machine
end

