-- ==== Sys2Proof/Laws/Ops.lean ====
section
/-! SUPPORT. One lemma per shared operation that says all it can do; later proofs cite these and do not unfold the
operation. -/

namespace Sys2Proof.Machine

/-! ### Channel calls -/

theorem State.tx_env (s : State) (f : List Byte) :
    (s.tx f).env = { s.env with
      txReplies := s.env.txReplies.tail
      trace := s.env.trace ++ [.tx f s.cfg.tTx s.nextTxReply] } := by
  cases h : s.env.txReplies <;> simp [State.tx, State.afterTxReply, State.nextTxReply, h]

theorem State.rx_env (s : State) (n t : Nat) :
    (s.rx n t).env = { s.env with
      rxEvents := (match s.env.rxEvents with | [] => [] | e :: rest => e.left n ++ rest)
      trace := s.env.trace ++ [.rx n t (s.nextRxReply n)] } := by
  cases h : s.env.rxEvents <;> simp [State.rx, State.afterRxReply, State.nextRxReply, h]

@[simp] theorem State.rx_trace (s : State) (n t : Nat) :
    (s.rx n t).env.trace = s.env.trace ++ [.rx n t (s.nextRxReply n)] := by simp [State.rx_env]

@[simp] theorem State.rx_host (s : State) (n t : Nat) : (s.rx n t).env.host = s.env.host := by
  simp [State.rx_env]

@[simp] theorem State.rx_lines (s : State) (n t : Nat) : (s.rx n t).env.lines = s.env.lines := by
  simp [State.rx_env]

@[simp] theorem State.tx_trace (s : State) (f : List Byte) :
    (s.tx f).env.trace = s.env.trace ++ [.tx f s.cfg.tTx s.nextTxReply] := by simp [State.tx_env]

@[simp] theorem State.tx_host (s : State) (f : List Byte) : (s.tx f).env.host = s.env.host := by
  simp [State.tx_env]

theorem sameButForTheCall_rx (s : State) (n t : Nat) : SameButForTheCall s (s.rx n t) := by
  unfold SameButForTheCall State.rx State.afterRxReply; split <;> rfl

theorem sameButForTheCall_tx (s : State) (f : List Byte) : SameButForTheCall s (s.tx f) := by
  unfold SameButForTheCall State.tx State.afterTxReply; split <;> rfl

/-- A receive delivers exactly the bytes asked for (R142), from a script or free. -/
theorem State.nextRxReply_length {s : State} {n : Nat} {b : List Byte} (h : s.nextRxReply n = .ok b) :
    b.length = n := by
  unfold State.nextRxReply at h
  split at h
  · unfold freeRxReply at h
    split at h <;> simp at h
    simp [← h]
  · rename_i e _ _
    cases e with
    | bytes c =>
      simp only [RxEvent.reply] at h
      split at h <;> simp at h
      simp [← h]; omega
    | timeout => simp [RxEvent.reply] at h
    | error => simp [RxEvent.reply] at h

theorem State.nextRxReply_one {s : State} {b : List Byte} (h : s.nextRxReply 1 = .ok b) : ∃ x, b = [x] := by
  have := State.nextRxReply_length h
  match b, this with
  | [x], _ => exact ⟨x, rfl⟩

/-- A stage that fails with a channel kind ends in `faultedWith` (R305, R307). -/
theorem State.stageFails_eq (s : State) {k : Status} (h : k.faults = true) : s.stageFails k = faultedWith s k := by
  simp [State.stageFails, State.fail, faultedWith, h]

/-- What `receive` can do: go on with bytes of the right number, or end the operation. -/
theorem State.receive_cases (s : State) (n t : Nat) (got : List Byte → State → Fetch) :
    (∃ b, b.length = n ∧ s.nextRxReply n = .ok b ∧ s.receive n t got = got b (s.rx n t)) ∨
    (s.nextRxReply n = .timeout ∧ s.receive n t got = .internal ((s.rx n t).stageFails .protocolTimeout)) ∨
    (s.nextRxReply n = .error ∧ s.receive n t got = .internal ((s.rx n t).stageFails .transportError)) := by
  unfold State.receive
  cases h : s.nextRxReply n with
  | ok b => exact .inl ⟨b, State.nextRxReply_length h, rfl, rfl⟩
  | timeout => exact .inr (.inl ⟨rfl, rfl⟩)
  | error => exact .inr (.inr ⟨rfl, rfl⟩)

/-- What `sendFrame` can do (R146). -/
theorem State.sendFrame_cases (s : State) (f : List Byte) :
    (s.nextTxReply = .ok ∧ s.sendFrame f = { s.tx f with phase := s.phase.sent }) ∨
    (s.nextTxReply = .error ∧ s.sendFrame f = (s.tx f).stageFails .transportError) := by
  unfold State.sendFrame
  cases h : s.nextTxReply <;> simp

/-! ### Admission -/

theorem State.inSet_iff (s : State) (x : Byte) : s.inSet x = true ↔ x ∈ s.cmdSet := by
  simp [State.inSet]

/-- The gate, the session state, then the operands (R303). -/
theorem State.gated_cases (s : State) (x : Byte) (c : Option Status) :
    (x ∉ s.cmdSet ∧ s.gated x c = some .unsupported) ∨
    (x ∈ s.cmdSet ∧ s.session ≠ .ready ∧ s.gated x c = some .notReady) ∨
    (x ∈ s.cmdSet ∧ s.session = .ready ∧ s.gated x c = c) := by
  unfold State.gated
  by_cases hx : x ∈ s.cmdSet <;> by_cases hs : s.session = .ready <;> simp [State.inSet, hx, hs]

/-- What a request can do: nothing while busy, `fail` with the kind of the refusal, or start. -/
theorem State.request_cases (s : State) (o : Op) (start : State → State) :
    (s.busy = true ∧ s.request o start = s) ∨
    (s.busy = false ∧ ∃ k, s.refusal o = some k ∧
      s.request o start = ({ s with op := o, busy := true } : State).fail k) ∨
    (s.busy = false ∧ s.refusal o = none ∧ s.request o start = start { s with op := o, busy := true }) := by
  have href : ({ s with op := o, busy := true } : State).refusal o = s.refusal o := by cases o <;> rfl
  unfold State.request State.accept
  cases hb : s.busy with
  | true => simp
  | false =>
    simp only [Bool.false_eq_true, if_false, false_and, true_and, false_or, href]
    cases h : s.refusal o with
    | none => exact .inr ⟨rfl, rfl⟩
    | some k => exact .inl ⟨k, rfl, rfl⟩

/-! ### The step and the reset input -/

theorem step_reset {s : State} {rest : List Bool} (h : s.env.resetLine = true :: rest) :
    step s = .next ({ s with env := { s.env with resetLine := rest } } : State).resetNow := by
  simp [step, h]

/-- Without a reset a step is the engine's own, the read level of the reset input gone. -/
theorem step_engine {s : State} (h : NoReset s) :
    step s = engineStep { s with env := { s.env with resetLine := s.env.resetLine.tail } } := by
  unfold NoReset at h
  cases hl : s.env.resetLine with
  | nil =>
    have : ({ s with env := { s.env with resetLine := [] } } : State) = s := by
      rw [← hl]
    simp [step, hl, this]
  | cons b rest =>
    cases b with
    | false => simp [step, hl]
    | true => simp [hl] at h

/-- What the engine's own step can do. -/
theorem engineStep_cases {s t : State} (h : engineStep s = .next t) :
    (∃ i u, s.fetch = .run i u ∧ exec i u = .next t) ∨ s.fetch = .internal t := by
  unfold engineStep at h
  split at h
  · exact .inl ⟨_, _, by assumption, h⟩
  · simp at h; exact .inr (by simp_all)
  · simp at h

/-! ### What each action can do -/

/-- The loop test of a `DATA` record (R273, R274): the next chunk, a refusal, or the end of the dispatch. -/
theorem State.nextChunk_cases (s : State) :
    (s.cfg.opWrite ∈ s.cmdSet ∧ s.session = .ready ∧ s.chunkOff < s.record.count ∧
      s.nextChunk = { s with phase := .wrCmd .send }) ∨
    ((∃ k, (k = .unsupported ∨ k = .notReady) ∧ s.nextChunk = ({ s with recValid := false } : State).fail k) ∧
      s.chunkOff < s.record.count) ∨
    (¬ s.chunkOff < s.record.count ∧ s.nextChunk = s.endDispatch) := by
  unfold State.nextChunk
  split
  · rename_i hlt
    rcases s.gated_cases s.cfg.opWrite none with ⟨_, e⟩ | ⟨_, _, e⟩ | ⟨a, b, e⟩ <;> rw [e]
    · exact .inr (.inl ⟨⟨_, .inl rfl, rfl⟩, hlt⟩)
    · exact .inr (.inl ⟨⟨_, .inr rfl, rfl⟩, hlt⟩)
    · exact .inl ⟨a, b, hlt, rfl⟩
  · exact .inr (.inr ⟨by assumption, rfl⟩)

/-- The drain (R173) goes on, or is over. -/
theorem State.drainOnce_cases (s : State) :
    s.drainOnce = s.rx 1 s.cfg.tDrain ∨ s.drainOnce = { s.rx 1 s.cfg.tDrain with phase := .hsSyncTx } := by
  unfold State.drainOnce; split <;> simp

/-- The length byte of Get (R177) is refused, or the list is read next. -/
theorem State.getLengthByte_cases (s : State) (n : Byte) :
    (s.cfg.getBufCap < n.toNat + 1 ∧ s.getLengthByte n = s.stageFails .bufferTooSmall) ∨
    (n.toNat + 1 ≤ s.cfg.getBufCap ∧ s.getLengthByte n = { s with phase := .getList n }) := by
  unfold State.getLengthByte
  split
  · exact .inl ⟨by assumption, rfl⟩
  · exact .inr ⟨by omega, rfl⟩

/-- A Get response (R102, R176) does nothing, is refused, or fills `get_buf`. -/
theorem getRsp_cases {s t : State} {v : Byte} {ops : List Byte} (h : exec (.getRsp v ops) s = .next t) :
    t = s ∨ t = s.stageFails .bufferTooSmall ∨ t = ({ s with getBuf := v :: ops } : State).getDone := by
  simp only [exec, execGetRsp, Host.Outcome.next.injEq] at h
  subst h
  split
  · split <;> simp
  · simp

/-- Read data (R104, R201) does nothing, or fills `rd_buf` and ends the read. -/
theorem rdData_cases {s t : State} {d : List Byte} (h : exec (.rdData d) s = .next t) :
    t = s ∨ t = ({ s with rdBuf := d } : State).done := by
  simp only [exec, execRdData, Host.Outcome.next.injEq] at h
  subst h
  split <;> simp

/-- The dispatch of a record (R271) by its type. -/
theorem record_cases {s t : State} {r : Record} {i : Instr} (hr : r.toInstr = some i)
    (h : exec i s = .next t) :
    (r.type = 0x00 ∧
      t = ({ s with recValid := true, record := Record.make r.addr 0x00 r.data, chunkOff := 0 } : State).nextChunk) ∨
    (r.type = 0x01 ∧ t = ({ s with recValid := false } : State).done) ∨
    (∃ d0 d1, r.type = 0x04 ∧ r.data = [d0, d1] ∧
      t = ({ s with baseAddress := elaBase d0 d1 } : State).endDispatch) ∨
    (∃ d0 d1 d2 d3, r.type = 0x05 ∧ r.data = [d0, d1, d2, d3] ∧
      t = ({ s with entry := some (addrOf d0 d1 d2 d3) } : State).endDispatch) := by
  unfold Record.toInstr at hr
  split_ifs at hr with t0 t1 t4 t5
  · cases hr; simp only [exec, execRecData, Host.Outcome.next.injEq] at h; exact .inl ⟨t0, h.symm⟩
  · cases hr; simp only [exec, execRecEof, Host.Outcome.next.injEq] at h; exact .inr (.inl ⟨t1, h.symm⟩)
  · split at hr <;> cases hr
    simp only [exec, execRecEla, Host.Outcome.next.injEq] at h
    exact .inr (.inr (.inl ⟨_, _, t4, by assumption, h.symm⟩))
  · split at hr <;> cases hr
    simp only [exec, execRecSla, Host.Outcome.next.injEq] at h
    exact .inr (.inr (.inr ⟨_, _, _, _, t5, by assumption, h.symm⟩))

/-- Every meaning answers a next state. -/
theorem exec_next (i : Instr) (s : State) : ∃ t, exec i s = .next t := by
  cases i <;> exact ⟨_, rfl⟩

/-! ### Runs -/

theorem runs_zero (s : State) : Runs 0 s s := rfl

theorem runs_succ {k : Nat} {s u t : State} (h : step s = .next u) (h2 : Runs k u t) : Runs (k + 1) s t := by
  have h' : Host.Core.step Sys2Proof.core s = .next u := h
  unfold Runs at *
  simp only [Host.Core.run]
  rw [h']; exact h2

end Sys2Proof.Machine
end

