-- ==== Sys2Proof/Laws/Step.lean ====
section
/-! SUPPORT. What a step can do, said once: `Sends`, `Receives` and `EngineMove` list the moves of the engine, and
`engineStep_move` says that every next state is the result of one of them. -/

namespace Sys2Proof.Machine

/-- The frame that is sent from each sending phase. -/
inductive Sends (s : State) : Instr → Prop where
  | sync : s.phase = .hsSyncTx → Sends s .sync
  | cmdGet : s.phase = .getCmd .send → Sends s .cmdGet
  | cmdRead : s.phase = .rdCmd .send → Sends s .cmdRead
  | cmdWrite : s.phase = .wrCmd .send → Sends s .cmdWrite
  | cmdErase : s.phase = .erCmd .send → Sends s .cmdErase
  | cmdGo : s.phase = .goCmd .send → Sends s .cmdGo
  | readAddr : s.phase = .rdAddr .send → Sends s (.addr s.args.addr)
  | readLen : s.phase = .rdLen .send → Sends s (.len (countByte s.args.len))
  | writeAddr : s.phase = .wrAddr .send → Sends s (.addr s.writeOperands.1)
  | writePay : s.phase = .wrPay .send → Sends s (.pay s.writeOperands.2)
  | erasePay : s.phase = .erPay .send → Sends s (.erasePay s.args.pageList)
  | goAddr {a : Addr} : s.phase = .goAddr .send → s.goOperand = some a → Sends s (.addr a)

/-- The receives whose failure ends the operation: how many bytes, within which timeout. -/
inductive Receives (s : State) : Nat → Nat → Prop where
  | response : s.phase.awaitsAck = true → Receives s 1 s.ackTimeout
  | getLen : s.phase = .getLen → Receives s 1 s.cfg.tData
  | getList {k : Byte} : s.phase = .getList k → Receives s (k.toNat + 1) s.cfg.tData
  | readData : s.phase = .rdData → Receives s s.args.len s.cfg.tData

/-- The moves of the engine. -/
inductive EngineMove (s : State) : State → Prop where
  | wait : s.phase = .idle → s.busy = true ∨ s.env.host = [] → EngineMove s s
  | request {r : Request} {rest : List Request} {t : State} :
    s.phase = .idle → s.busy = false → s.env.host = r :: rest →
    exec (decodeOp r.op) (s.latch r rest) = .next t → EngineMove s t
  | send {i : Instr} : isFrame i = true → Sends s i → EngineMove s (s.sendFrame (encode s.cfg i))
  | acked : s.phase.awaitsAck = true → s.nextRxReply 1 = .ok [Config.ack] →
    EngineMove s (s.rx 1 s.ackTimeout).acknowledged
  | nacked {b : Byte} : s.phase.awaitsAck = true → s.nextRxReply 1 = .ok [b] → b ≠ Config.ack →
    EngineMove s ((s.rx 1 s.ackTimeout).stageFails .protocolNack)
  | silent {n t : Nat} : Receives s n t → s.nextRxReply n = .timeout →
    EngineMove s ((s.rx n t).stageFails .protocolTimeout)
  | broken {n t : Nat} : Receives s n t → s.nextRxReply n = .error →
    EngineMove s ((s.rx n t).stageFails .transportError)
  | drain : s.phase = .hsDrain → EngineMove s s.drainOnce
  | getLen {b : Byte} : s.phase = .getLen → s.nextRxReply 1 = .ok [b] →
    EngineMove s ((s.rx 1 s.cfg.tData).getLengthByte b)
  | getList {k v : Byte} {ops : List Byte} {t : State} : s.phase = .getList k → ops.length = k.toNat →
    s.nextRxReply (k.toNat + 1) = .ok (v :: ops) →
    exec (.getRsp v ops) (s.rx (k.toNat + 1) s.cfg.tData) = .next t → EngineMove s t
  | readData {d : List Byte} {t : State} : s.phase = .rdData → d.length = s.args.len →
    s.nextRxReply s.args.len = .ok d →
    exec (.rdData d) (s.rx s.args.len s.cfg.tData) = .next t → EngineMove s t
  | commit : s.phase = .hsCommit → EngineMove s s.commit
  | nextLine : s.phase = .upNext → EngineMove s s.nextLine
  | stripLine : s.phase = .upStrip → EngineMove s s.stripLine
  | parseLine : s.phase = .upParse → EngineMove s s.parseLine
  | dispatch {i : Instr} {t : State} : s.phase = .upDispatch → s.recValid = true →
    s.record.toInstr = some i → exec i s = .next t → EngineMove s t

/-- The phases in which `fetch` receives a response byte are the phases that await one (R144). -/
theorem fetch_response {s : State} (h : s.phase.awaitsAck = true) : s.fetch = s.fetchResponse := by
  unfold State.fetch
  unfold Phase.awaitsAck at h
  split at h <;> simp_all

/-- Sending a frame is `sendFrame` of its bytes, for every frame. -/
theorem exec_frame {i : Instr} (s : State) (h : isFrame i = true) :
    exec i s = .next (s.sendFrame (encode s.cfg i)) := by
  cases i <;> simp [isFrame] at h <;> rfl

theorem exec_response {s t : State} {b : Byte} (hp : s.phase.awaitsAck = true)
    (h : exec (decodeResponse b) s = .next t) :
    (b = Config.ack ∧ t = s.acknowledged) ∨ (b ≠ Config.ack ∧ t = s.stageFails .protocolNack) := by
  unfold decodeResponse at h
  split_ifs at h with h1 h2
  · exact .inl ⟨h1, by simpa [exec, execAck] using h.symm⟩
  · exact .inr ⟨h1, by simpa [exec, execNack, State.notAcknowledged, hp] using h.symm⟩
  · exact .inr ⟨h1, by simpa [exec, execRspOther, State.notAcknowledged, hp] using h.symm⟩

/-- One receive that ends the operation when it fails, and what follows the bytes. -/
theorem receive_move {s t : State} {n tm : Nat} {got : List Byte → State → Fetch} (hr : Receives s n tm)
    (hf : s.fetch = s.receive n tm got) (h : engineStep s = .next t)
    (hgot : ∀ b, b.length = n → s.nextRxReply n = .ok b →
      (match got b (s.rx n tm) with
        | .run i u => exec i u
        | .internal u => .next u
        | .stop f => .fault f) = .next t → EngineMove s t) : EngineMove s t := by
  unfold engineStep at h
  rw [hf] at h
  rcases s.receive_cases n tm got with ⟨b, hl, hb, e⟩ | ⟨hb, e⟩ | ⟨hb, e⟩
  · rw [e] at h; exact hgot b hl hb h
  · rw [e] at h
    obtain rfl := Host.Outcome.next.inj h
    exact .silent hr hb
  · rw [e] at h
    obtain rfl := Host.Outcome.next.inj h
    exact .broken hr hb

theorem response_move {s t : State} (hp : s.phase.awaitsAck = true) (h : engineStep s = .next t) :
    EngineMove s t := by
  refine receive_move (.response hp) (fetch_response hp) h ?_
  intro b hl hb he
  obtain ⟨x, rfl⟩ := State.nextRxReply_one hb
  have hp' : (s.rx 1 s.ackTimeout).phase.awaitsAck = true := by rw [State.rx_phase]; exact hp
  rcases exec_response hp' he with ⟨rfl, rfl⟩ | ⟨hx, rfl⟩
  · exact .acked hp hb
  · exact .nacked hp hb hx

theorem send_move {s t : State} {i : Instr} (hi : isFrame i = true) (hs : Sends s i)
    (h : exec i s = .next t) : EngineMove s t := by
  rw [exec_frame s hi] at h
  obtain rfl := Host.Outcome.next.inj h
  exact .send hi hs

theorem request_move {s t : State} (hp : s.phase = .idle) (h : engineStep s = .next t) : EngineMove s t := by
  unfold engineStep State.fetch at h
  simp only [hp, State.fetchRequest] at h
  cases hb : s.busy with
  | true =>
    simp only [hb, if_true] at h
    obtain rfl := Host.Outcome.next.inj h
    exact .wait hp (.inl hb)
  | false =>
    simp only [hb, Bool.false_eq_true, if_false] at h
    cases hh : s.env.host with
    | nil =>
      simp only [hh] at h
      obtain rfl := Host.Outcome.next.inj h
      exact .wait hp (.inr hh)
    | cons r rest => simp only [hh] at h; exact .request hp hb hh h

/-- Every next state of the engine is the result of one of the moves. -/
theorem engineStep_move {s t : State} (h : engineStep s = .next t) : EngineMove s t := by
  have send {i : Instr} (hi : isFrame i = true) (hs : Sends s i) (hf : s.fetch = .run i s) :
      EngineMove s t := by
    unfold engineStep at h; rw [hf] at h; exact send_move hi hs h
  have internal {u : State} (hm : EngineMove s u) (hf : s.fetch = .internal u) : EngineMove s t := by
    unfold engineStep at h; rw [hf] at h; obtain rfl := Host.Outcome.next.inj h; exact hm
  cases hp : s.phase with
  | idle => exact request_move hp h
  | hsDrain => exact internal (.drain hp) (by simp [State.fetch, hp])
  | hsSyncTx => exact send rfl (.sync hp) (by simp [State.fetch, hp])
  | hsSyncAck => exact response_move (by rw [hp]; rfl) h
  | getCmd q =>
    cases q with
    | send => exact send rfl (.cmdGet hp) (by simp [State.fetch, hp])
    | await => exact response_move (by rw [hp]; rfl) h
  | getLen =>
    refine receive_move (.getLen hp) (by simp only [State.fetch, hp]; rfl) h ?_
    intro b hl hb he
    obtain ⟨x, rfl⟩ := State.nextRxReply_one hb
    obtain rfl := Host.Outcome.next.inj he
    exact .getLen hp hb
  | getList k =>
    refine receive_move (.getList hp) (by simp only [State.fetch, hp]; rfl) h ?_
    intro b hl hb he
    match b, hl with
    | v :: ops, hl => exact .getList hp (by simpa using hl) hb he
  | hsCommit => exact internal (.commit hp) (by simp [State.fetch, hp])
  | rdCmd q =>
    cases q with
    | send => exact send rfl (.cmdRead hp) (by simp [State.fetch, hp])
    | await => exact response_move (by rw [hp]; rfl) h
  | rdAddr q =>
    cases q with
    | send => exact send rfl (.readAddr hp) (by simp [State.fetch, hp])
    | await => exact response_move (by rw [hp]; rfl) h
  | rdLen q =>
    cases q with
    | send => exact send rfl (.readLen hp) (by simp [State.fetch, hp])
    | await => exact response_move (by rw [hp]; rfl) h
  | rdData =>
    refine receive_move (.readData hp) (by simp only [State.fetch, hp]; rfl) h ?_
    intro b hl hb he
    exact .readData hp hl hb he
  | wrCmd q =>
    cases q with
    | send => exact send rfl (.cmdWrite hp) (by simp [State.fetch, hp])
    | await => exact response_move (by rw [hp]; rfl) h
  | wrAddr q =>
    cases q with
    | send => exact send rfl (.writeAddr hp) (by simp [State.fetch, hp])
    | await => exact response_move (by rw [hp]; rfl) h
  | wrPay q =>
    cases q with
    | send => exact send rfl (.writePay hp) (by simp [State.fetch, hp])
    | await => exact response_move (by rw [hp]; rfl) h
  | erCmd q =>
    cases q with
    | send => exact send rfl (.cmdErase hp) (by simp [State.fetch, hp])
    | await => exact response_move (by rw [hp]; rfl) h
  | erPay q =>
    cases q with
    | send => exact send rfl (.erasePay hp) (by simp [State.fetch, hp])
    | await => exact response_move (by rw [hp]; rfl) h
  | goCmd q =>
    cases q with
    | send => exact send rfl (.cmdGo hp) (by simp [State.fetch, hp])
    | await => exact response_move (by rw [hp]; rfl) h
  | goAddr q =>
    cases q with
    | send =>
      unfold engineStep at h
      simp only [State.fetch, hp, State.fetchGoAddr] at h
      cases hg : s.goOperand with
      | none => simp [hg] at h
      | some a => simp only [hg] at h; exact send_move rfl (.goAddr hp hg) h
    | await => exact response_move (by rw [hp]; rfl) h
  | upNext => exact internal (.nextLine hp) (by simp [State.fetch, hp])
  | upStrip => exact internal (.stripLine hp) (by simp [State.fetch, hp])
  | upParse => exact internal (.parseLine hp) (by simp [State.fetch, hp])
  | upDispatch =>
    unfold engineStep at h
    simp only [State.fetch, hp, State.fetchRecord] at h
    cases hr : s.recValid with
    | false => simp [hr] at h
    | true =>
      cases hi : s.record.toInstr with
      | none => simp [hr, hi] at h
      | some i => simp only [hr, hi] at h; exact .dispatch hp hr hi h

/-- Every next state of a step is a reset, or a move of the engine behind the read level of the reset input. -/
theorem step_move {s t : State} (h : step s = .next t) (hn : NoReset s) :
    EngineMove { s with env := { s.env with resetLine := s.env.resetLine.tail } } t :=
  engineStep_move (by rw [← step_engine hn]; exact h)

end Sys2Proof.Machine
end

