-- ==== Sys2Proof/Tests/Slice0.lean ====
section
/-! SUPPORT. The model's own tests: the well-formedness smoke test, words written out from the spec's encodings, single steps
with the results of spec/95_test_vectors.md and of the examples of the rules, and a witness for every statement that has
hypotheses. -/

open Sys2Proof Sys2Proof.Machine

namespace Sys2Proof.Tests

/-! ### Helpers -/

/-- One field of the next state. -/
def after {α : Type} (r : Result) (f : State → α) : Option α :=
  match r with
  | .next t => some (f t)
  | .fault _ => none
  | .refused _ => none

/-- The start state RDY5 of 95_test_vectors.md: the state after its vector H1. -/
def rdy5 : State :=
  { State.reset with
    session := .ready
    cmdSet := [0x00, 0x11, 0x21, 0x31, 0x43]
    getBuf := [0x31, 0x00, 0x11, 0x21, 0x31, 0x43] }

/-- RDY5 inside operation `o` at phase `p`. -/
def busyAt (o : Op) (p : Phase) : State := rdy5.inside o p

/-- A handshake at phase `p`. -/
def shakingAt (p : Phase) : State := State.reset.inside .handshake p

/-- `s` with the channel about to deliver these events and to accept what is sent. -/
def hearing (s : State) (es : List RxEvent) : State :=
  { s with env.rxEvents := es, env.txReplies := [.ok, .ok, .ok] }

/-- `s` with this request on the command port. -/
def asked (s : State) (op : BitVec 3) (lines : List LineEvent) : State :=
  { s with env.host := [⟨op, s.args, lines⟩] }

/-- `s` with `arg_len` and `arg_npages` set. -/
def counts (s : State) (n : Nat) : State := { s with args.len := n, args.npages := n }

/-- RDY5 uploading a record at phase `p`. -/
def uploading (p : Phase) (r : Record) : State := { busyAt .upload p with recValid := true, record := r }

/-- The record of `:0401000001020304F1` (43_hex_parser.md R250). -/
def record4 : Record := ⟨0x0100, 0x00, [0x01, 0x02, 0x03, 0x04], 0xF1⟩

/-! ### Well-formedness refuses each ill-formed term (R92, R98 to R104, R108) -/

theorem test_wf_pay_empty : Instr.wf Params.default (.pay []) = false := by decide
theorem test_wf_pay_long : Instr.wf Params.default (.pay (List.replicate 257 0)) = false := by
  simp only [Instr.wf, List.length_replicate]; decide
theorem test_wf_pay_above_frame : Instr.wf { Params.default with frameMax := 2 } (.pay [1, 2, 3]) = false := by
  decide
theorem test_wf_erase_empty : Instr.wf Params.default (.erasePay []) = false := by decide
theorem test_wf_erase_long : Instr.wf Params.default (.erasePay (List.replicate 128 0)) = false := by
  simp only [Instr.wf, List.length_replicate]; decide
theorem test_wf_other_ack : Instr.wf Params.default (.rspOther 0x79) = false := by decide
theorem test_wf_other_nack : Instr.wf Params.default (.rspOther 0x1F) = false := by decide
theorem test_wf_getRsp_long : Instr.wf Params.default (.getRsp 0x31 (List.replicate 256 0)) = false := by
  simp only [Instr.wf, List.length_replicate]; decide
theorem test_wf_rdData_empty : Instr.wf Params.default (.rdData []) = false := by decide
theorem test_wf_rdData_long : Instr.wf Params.default (.rdData (List.replicate 257 0)) = false := by
  simp only [Instr.wf, List.length_replicate]; decide
theorem test_wf_recData_long : Instr.wf Params.default (.recData 0 (List.replicate 256 0)) = false := by
  simp only [Instr.wf, List.length_replicate]; decide
theorem test_wf_recEof_long : Instr.wf Params.default (.recEof 0 (List.replicate 256 0)) = false := by
  simp only [Instr.wf, List.length_replicate]; decide

/-! ### Words written out from the spec's encodings -/

/-- R118: `00`. -/
theorem test_word_handshake : decode Params.default .opSelect
    [0x00] = .ok .handshake := by decide
theorem test_word_get : decode Params.default .opSelect
    [0x01] = .ok .get := by decide
theorem test_word_read : decode Params.default .opSelect
    [0x02] = .ok .read := by decide
theorem test_word_write : decode Params.default .opSelect
    [0x03] = .ok .write := by decide
theorem test_word_erase : decode Params.default .opSelect
    [0x04] = .ok .erase := by decide
theorem test_word_go : decode Params.default .opSelect
    [0x05] = .ok .go := by decide
theorem test_word_goEntry : decode Params.default .opSelect
    [0x06] = .ok .goEntry := by decide
theorem test_word_upload : decode Params.default .opSelect
    [0x07] = .ok .upload := by decide
/-- R91: `7F`. -/
theorem test_word_sync : decode Params.default .sync
    [0x7F] = .ok .sync := by decide
/-- R94: `00 FF`. -/
theorem test_word_cmdGet : decode Params.default .command
    [0x00, 0xFF] = .ok .cmdGet := by decide
theorem test_word_cmdRead : decode Params.default .command
    [0x11, 0xEE] = .ok .cmdRead := by decide
theorem test_word_cmdWrite : decode Params.default .command
    [0x31, 0xCE] = .ok .cmdWrite := by decide
theorem test_word_cmdErase : decode Params.default .command
    [0x43, 0xBC] = .ok .cmdErase := by decide
/-- R96: `21 DE`. -/
theorem test_word_cmdGo : decode Params.default .command
    [0x21, 0xDE] = .ok .cmdGo := by decide
/-- R205: `08 00 01 31 38`. -/
theorem test_word_addr : decode Params.default .address
    [0x08, 0x00, 0x01, 0x31, 0x38] = .ok (.addr 0x08000131) := by decide
/-- R201: `FF 00`. -/
theorem test_word_len : decode Params.default .length
    [0xFF, 0x00] = .ok (.len 0xFF) := by decide
/-- R148: `03 01 02 03 04 07`. -/
theorem test_word_pay : decode Params.default .payload
    [0x03, 0x01, 0x02, 0x03, 0x04, 0x07] = .ok (.pay [0x01, 0x02, 0x03, 0x04]) := by decide
/-- R203: `01 00 00 00 01 00`. -/
theorem test_word_erasePay : decode Params.default .erase
    [0x01, 0x00, 0x00, 0x00, 0x01, 0x00] = .ok (.erasePay [0x0000, 0x0001]) := by decide
/-- R92: `79`. -/
theorem test_word_ack : decode Params.default .response
    [0x79] = .ok .ack := by decide
theorem test_word_nack : decode Params.default .response
    [0x1F] = .ok .nack := by decide
theorem test_word_rspOther : decode Params.default .response
    [0x00] = .ok (.rspOther 0x00) := by decide
/-- R176: `02 31 11 21`. -/
theorem test_word_getRsp : decode Params.default .getRsp
    [0x02, 0x31, 0x11, 0x21] = .ok (.getRsp 0x31 [0x11, 0x21]) := by decide
/-- R201: `DE AD BE EF`. -/
theorem test_word_rdData : decode Params.default .readData
    [0xDE, 0xAD, 0xBE, 0xEF] = .ok (.rdData [0xDE, 0xAD, 0xBE, 0xEF]) := by decide
/-- R250: `:0401000001020304F1`. -/
theorem test_word_recData : decode Params.default .hexLine
    [0x3A, 0x30, 0x34, 0x30, 0x31, 0x30, 0x30, 0x30, 0x30, 0x30, 0x31, 0x30, 0x32, 0x30, 0x33, 0x30, 0x34, 0x46, 0x31] = .ok (.recData 0x0100 [0x01, 0x02, 0x03, 0x04]) := by decide
/-- R251: `:00000001FF`. -/
theorem test_word_recEof : decode Params.default .hexLine
    [0x3A, 0x30, 0x30, 0x30, 0x30, 0x30, 0x30, 0x30, 0x31, 0x46, 0x46] = .ok (.recEof 0x0000 []) := by decide
/-- R252: `:020000040800F2`. -/
theorem test_word_recEla : decode Params.default .hexLine
    [0x3A, 0x30, 0x32, 0x30, 0x30, 0x30, 0x30, 0x30, 0x34, 0x30, 0x38, 0x30, 0x30, 0x46, 0x32] = .ok (.recEla 0x0000 0x08 0x00) := by decide
/-- R253: `:0400000508000131BD`. -/
theorem test_word_recSla : decode Params.default .hexLine
    [0x3A, 0x30, 0x34, 0x30, 0x30, 0x30, 0x30, 0x30, 0x35, 0x30, 0x38, 0x30, 0x30, 0x30, 0x31, 0x33, 0x31, 0x42, 0x44] = .ok (.recSla 0x0000 0x08 0x00 0x01 0x31) := by decide

theorem test_word_bad_complement : decode Params.default .command [0x21, 0xDF] = .reject .badComplement := by
  decide
theorem test_word_unknown_opcode : decode Params.default .command [0x44, 0xBB] = .reject .unknownOpcode := by
  decide
theorem test_word_bad_xor : decode Params.default .address [0x12, 0x34, 0x56, 0x78, 0x09] = .reject .badXor := by
  decide
theorem test_word_bad_count : decode Params.default .payload [0x04, 0x01, 0x02, 0x03, 0x04, 0x07] = .reject .badCount := by
  decide
/-- R249: type 0x02, its checksum right (`:020000021000EC`). -/
theorem test_word_unknown_type : decode Params.default .hexLine
    [0x3A, 0x30, 0x32, 0x30, 0x30, 0x30, 0x30, 0x30, 0x32, 0x31, 0x30, 0x30, 0x30, 0x45, 0x43] = .reject .unknownType := by decide
/-- R245: `:00000001FE`, the checksum wrong. -/
theorem test_word_bad_checksum : decode Params.default .hexLine
    [0x3A, 0x30, 0x30, 0x30, 0x30, 0x30, 0x30, 0x30, 0x31, 0x46, 0x45] = .reject .badChecksum := by decide
theorem test_table_word_cmdGo : decodeTableWord 16 0x21DE = some .cmdGo := by decide
theorem test_table_word_addr : decodeTableWord 40 0x1234567808 = some (.addr 0x12345678) := by decide

/-! ### One step each -/

/-- R171 row 1. -/
theorem test_handshake_new_session :
    after (step (rdy5.place .handshake)) State.cmdSet = some ([]) := by
  decide
/-- R181: NotReady in `Faulted`. -/
theorem test_get_not_ready :
    after (step ({ rdy5 with session := .faulted }.place .get)) State.status = some (.notReady) := by
  decide
/-- R180: `get_count <- 0` at the start. -/
theorem test_get_starts :
    after (step (rdy5.place .get)) State.getBuf = some ([]) := by
  decide
/-- R201: 257 bytes. -/
theorem test_read_bad_operand :
    after (step ((counts rdy5 257).place .read)) State.status = some (.badOperand) := by
  decide
/-- R201: 256 bytes. -/
theorem test_read_starts :
    after (step ((counts rdy5 256).place .read)) State.phase = some (.rdCmd .send) := by
  decide
/-- R179: set [21]. -/
theorem test_write_unsupported :
    after (step ((counts { rdy5 with cmdSet := [0x21] } 4).place .write)) State.status = some (.unsupported) := by
  decide
/-- R202: one byte. -/
theorem test_write_starts :
    after (step ((counts rdy5 1).place .write)) State.phase = some (.wrCmd .send) := by
  decide
/-- R203: 128 pages. -/
theorem test_erase_bad_operand :
    after (step ((counts rdy5 128).place .erase)) State.status = some (.badOperand) := by
  decide
/-- R203: 127 pages. -/
theorem test_erase_starts :
    after (step ((counts rdy5 127).place .erase)) State.phase = some (.erCmd .send) := by
  decide
/-- R179: set [21]. -/
theorem test_go_starts :
    after (step ({ rdy5 with cmdSet := [0x21] }.place .go)) State.phase = some (.goCmd .send) := by
  decide
/-- R205. -/
theorem test_goEntry_unset :
    after (step (rdy5.place .goEntry)) State.status = some (.entryUnset) := by
  decide
/-- R205. -/
theorem test_goEntry_starts :
    after (step ({ rdy5 with entry := some 0x08000131 }.place .goEntry)) State.phase = some (.goCmd .send) := by
  decide
/-- R271: no line taken. -/
theorem test_upload_not_ready :
    after (step ((asked { rdy5 with session := .relinquished } 7 [.error]))) (·.env.lines.length) = some (1) := by
  decide
/-- R91. -/
theorem test_sync_frame :
    after (step (rdy5.place .sync)) State.txBuf = some ([0x7F]) := by
  decide
/-- R94. -/
theorem test_cmdGet_frame :
    after (step (rdy5.place .cmdGet)) State.txBuf = some ([0x00, 0xFF]) := by
  decide
/-- R94. -/
theorem test_cmdRead_frame :
    after (step (rdy5.place .cmdRead)) State.txBuf = some ([0x11, 0xEE]) := by
  decide
/-- R94. -/
theorem test_cmdWrite_frame :
    after (step (rdy5.place .cmdWrite)) State.txBuf = some ([0x31, 0xCE]) := by
  decide
/-- R94. -/
theorem test_cmdErase_frame :
    after (step (rdy5.place .cmdErase)) State.txBuf = some ([0x43, 0xBC]) := by
  decide
/-- R96. -/
theorem test_cmdGo_call :
    after (step (rdy5.place .cmdGo)) (·.env.trace) = some ([.tx [0x21, 0xDE] 1 .ok]) := by
  decide
/-- R147. -/
theorem test_addr_frame :
    after (step (rdy5.place (.addr 0x12345678))) State.txBuf = some ([0x12, 0x34, 0x56, 0x78, 0x08]) := by
  decide
/-- R201: L = 1. -/
theorem test_len_frame :
    after (step (rdy5.place (.len 0x00))) State.txBuf = some ([0x00, 0xFF]) := by
  decide
/-- R148. -/
theorem test_pay_frame :
    after (step (rdy5.place (.pay [0x01, 0x02, 0x03, 0x04]))) State.txBuf = some ([0x03, 0x01, 0x02, 0x03, 0x04, 0x07]) := by
  decide
/-- R203. -/
theorem test_erasePay_frame :
    after (step (rdy5.place (.erasePay [0x0000, 0x0001]))) State.txBuf = some ([0x01, 0x00, 0x00, 0x00, 0x01, 0x00]) := by
  decide
/-- R204. -/
theorem test_ack_relinquishes :
    after (step (hearing (busyAt .go (.goAddr .await)) [.bytes [0x79]])) State.session = some (.relinquished) := by
  decide
/-- R144. -/
theorem test_nack_faults :
    after (step (hearing (busyAt .go (.goAddr .await)) [.bytes [0x1F]])) State.session = some (.faulted) := by
  decide
/-- R144. -/
theorem test_other_is_nack :
    after (step (hearing (busyAt .go (.goAddr .await)) [.bytes [0x00]])) State.status = some (.protocolNack) := by
  decide
/-- R176. -/
theorem test_getRsp_fills :
    after (step (hearing (busyAt .get (.getList 0x02)) [.bytes [0x31, 0x11, 0x21]])) State.getBuf = some ([0x31, 0x11, 0x21]) := by
  decide
/-- R201. -/
theorem test_rdData_fills :
    after (step (hearing (counts (busyAt .read .rdData) 4) [.bytes [0xDE, 0xAD, 0xBE, 0xEF]])) State.rdBuf = some ([0xDE, 0xAD, 0xBE, 0xEF]) := by
  decide
/-- R273. -/
theorem test_recData_starts :
    after (step (uploading .upDispatch record4)) State.phase = some (.wrCmd .send) := by
  decide
/-- R33: a failed stage ends the dispatch. -/
theorem test_nack_ends_dispatch :
    after (step (hearing (uploading (.wrCmd .await) record4) [.bytes [0x1F]])) State.recValid = some (false) := by
  decide
/-- R275: `line_index` stays. -/
theorem test_recEof_ends :
    after (step ({ rdy5 with lineIndex := 2 }.place (.recEof 0x0000 []))) State.lineIndex = some (2) := by
  decide
/-- R276. -/
theorem test_recEla_base :
    after (step (rdy5.place (.recEla 0x0000 0x08 0x00))) State.baseAddress = some (0x08000000) := by
  decide
/-- R277. -/
theorem test_recSla_entry :
    after (step (rdy5.place (.recSla 0x0000 0x08 0x00 0x01 0x31))) State.entry = some (some 0x08000131) := by
  decide

/-! ### Witnesses: the hypotheses of each statement can be met -/

theorem rdy5_invariant : EngineInv rdy5 where
  params := by decide
  busyPhase := by decide
  phaseOk := trivial
  handshakeSession := by decide
  otherSession := by decide
  fresh := by intro h; cases h
  base := by decide
  setFits := by decide
  getFits := by decide
  readFits := by decide
  txFits := by decide
  record := by intro h; cases h
  recordFits := by decide

/-- The environment is no part of the invariant. -/
theorem env_invariant {s : State} (h : EngineInv s) (e : Env) : EngineInv { s with env := e } :=
  ⟨h.params, h.busyPhase, h.phaseOk, h.handshakeSession, h.otherSession, h.fresh, h.base, h.setFits,
    h.getFits, h.readFits, h.txFits, h.record, h.recordFits⟩

theorem asked_invariant (op : BitVec 3) (lines : List LineEvent) : EngineInv (asked rdy5 op lines) :=
  env_invariant rdy5_invariant _

theorem shut_invariant (x : Session) (hx : x ≠ .uninitialized) : EngineInv { rdy5 with session := x } :=
  have h := rdy5_invariant
  ⟨h.params, h.busyPhase, trivial, fun hb => (Bool.noConfusion hb), fun hb => (Bool.noConfusion hb), fun hs => absurd hs hx, h.base, h.setFits,
    h.getFits, h.readFits, h.txFits, h.record, h.recordFits⟩

theorem busy_invariant (o : Op) (p : Phase) (ho : o ≠ .handshake) (hp : p ≠ .idle) (h : PhaseOk (busyAt o p)) :
    EngineInv (busyAt o p) :=
  have r := rdy5_invariant
  ⟨r.params, ⟨fun _ => hp, fun _ => rfl⟩, h, fun _ e => absurd e ho, fun _ _ => rfl, r.fresh, r.base, r.setFits,
    r.getFits, r.readFits, r.txFits, fun hv => (Bool.noConfusion hv), r.recordFits⟩

theorem opGo_mem : Config.opGo ∈ rdy5.cmdSet := by decide

theorem noReset_of_empty {s : State} (h : s.env.resetLine = []) : NoReset s := by simp [NoReset, h]

/-- A `GO` at phase `p`, the channel about to deliver these events. -/
def going (p : Phase) (es : List RxEvent) : State := hearing (busyAt .go p) es

theorem going_invariant (h : Half) (es : List RxEvent) : EngineInv (going (.goAddr h) es) :=
  env_invariant (busy_invariant .go (.goAddr h) (by decide) (by simp) ⟨opGo_mem, .inl rfl⟩) _

theorem goCmd_invariant (h : Half) (es : List RxEvent) : EngineInv (going (.goCmd h) es) :=
  env_invariant (busy_invariant .go (.goCmd h) (by decide) (by simp) ⟨opGo_mem, .inl rfl⟩) _

/-- A handshake that has its Get list. -/
def committing : State := { shakingAt .hsCommit with getBuf := [0x31, 0x21] }

theorem committing_invariant : EngineInv committing where
  params := by decide
  busyPhase := by decide
  phaseOk := ⟨rfl, by decide⟩
  handshakeSession := by decide
  otherSession := by decide
  fresh := by decide
  base := by decide
  setFits := by decide
  getFits := by decide
  readFits := by decide
  txFits := by decide
  record := by intro h; cases h
  recordFits := by decide

theorem uploading_invariant (r : Record) (h : Genuine r) : EngineInv (uploading .upDispatch r) :=
  have d := rdy5_invariant
  ⟨d.params, ⟨fun _ => Phase.noConfusion, fun _ => rfl⟩, ⟨rfl, rfl⟩, fun _ => Op.noConfusion,
    fun _ _ => rfl,
    d.fresh, d.base, d.setFits, d.getFits, d.readFits, d.txFits,
    fun _ => ⟨h, rfl, rfl⟩, h.count⟩

/-! Encodings and the parser -/

theorem witness_DecodeOfEncodeIsTheInstruction :
    Params.default.Valid ∧ Instr.wf Params.default (.pay (List.replicate 256 0)) = true ∧
    Instr.wf Params.default (.erasePay (List.replicate 127 0)) = true ∧
    Instr.wf Params.default (.recData 0 (List.replicate 255 0)) = true := by
  refine ⟨by decide, ?_, ?_, ?_⟩ <;> simp only [Instr.wf, List.length_replicate] <;> decide
theorem witness_DecodedBytesAreTheEncoding :
    Params.default.Valid ∧ decode Params.default .erase [0x00, 0x01, 0x02, 0x03] = .ok (.erasePay [0x0102]) ∧
    Space.erase ≠ .hexLine := by decide
theorem witness_TwoByteFramesCarryTheComplement :
    ((busyAt .read (.rdLen .send)).phase = .rdLen .send) ∧
    (counts (busyAt .read (.rdLen .send)) 1).args.len = 1 ∧
    (counts (busyAt .read (.rdLen .send)) 256).args.len = 256 := ⟨rfl, rfl, rfl⟩
theorem witness_PayloadFrameWellFormed :
    1 ≤ ([0x05] : List Byte).length ∧ (List.replicate 256 (0x00 : Byte)).length ≤ Params.default.frameMax ∧
    Params.default.Valid := ⟨by decide, by rw [List.length_replicate]; decide, by decide⟩
theorem witness_EraseFrameListsThePages :
    1 ≤ ([0x0000] : List Half16).length ∧ 1 ≤ (List.replicate 127 (0x0000 : Half16)).length ∧
    (List.replicate 127 (0x0000 : Half16)).length ≤ 127 :=
  ⟨by decide, by rw [List.length_replicate]; decide, by rw [List.length_replicate]⟩
theorem witness_AddressFrameRoundTrip :
    decode Params.default .address [0x12, 0x34, 0x56, 0x78, 0x08] = .ok (.addr 0x12345678) := by decide
theorem witness_XorChecksumLaws :
    ([0x12, 0x34] : List Byte).Perm [0x34, 0x12] ∧ (Instr.addr 0).space ∈ [Space.address, .payload, .erase] ∧
    (Instr.pay []).space ∈ [Space.address, .payload, .erase] ∧
    (Instr.erasePay []).space ∈ [Space.address, .payload, .erase] := ⟨List.Perm.swap _ _ _, by decide, by decide, by decide⟩
theorem witness_HexDigitsOfBothCases :
    hexDigit 0x30 = some 0 ∧ hexDigit 0x39 = some 9 ∧ hexDigit 0x41 = some 10 ∧ hexDigit 0x46 = some 15 ∧
    hexDigit 0x61 = some 10 ∧ hexDigit 0x66 = some 15 ∧ hexDigit 0x47 = none ∧ hexDigit 0x2F = none ∧
    hexByte [0x3A, 0x66, 0x32] 1 = some 0xF2 := by decide
theorem witness_AddressesAreFormedModulo2To32 :
    (0xFFFF0000 : Addr).extractLsb' 0 16 = 0 ∧ recordAddress 0xFFFF0000 0xFFFF 1 = 0 := by decide
theorem witness_ParseOfEncodedRecord :
    ([] : List Byte).length ≤ 255 ∧ (List.replicate 255 (0x00 : Byte)).length ≤ 255 ∧
    ([0x08, 0x00] : List Byte).length = 2 ∧ ([0x08, 0x00, 0x01, 0x31] : List Byte).length = 4 :=
  ⟨by decide, by rw [List.length_replicate], rfl, rfl⟩
/-- `:020000000aBcKK` and a trailing space: lower and upper case, the checksum 0x38 replaced by `KK` = 39. -/
theorem witness_WrongChecksumIsMalformed :
    let text : List Byte :=
      [0x3A, 0x30, 0x32, 0x30, 0x30, 0x30, 0x30, 0x30, 0x30, 0x30, 0x61, 0x42, 0x63, 0x33, 0x39, 0x20]
    (text[0]? = some 0x3A ∧ hexByte text 1 = some 2 ∧ hexByte text 3 = some 0 ∧ hexByte text 5 = some 0 ∧
      hexByte text 7 = some 0 ∧ 11 + 2 * (2 : Byte).toNat ≤ text.length ∧ hexBytes text 9 2 = some [0x0A, 0xBC] ∧
      hexByte text 13 = some 0x39 ∧ (0x39 : Byte) ≠ cksHex [2, 0, 0, 0, 0x0A, 0xBC] ∧
      (0x38 : Byte) = cksHex [2, 0, 0, 0, 0x0A, 0xBC]) ∧
    { busyAt .upload .upParse with line := text }.phase = .upParse ∧
    { busyAt .upload .upParse with line := text }.line = text ∧
    (0xFE : Byte) ≠ cksHex (recordBytes 0x0000 0x01 []) ∧ (0xFF : Byte) = cksHex (recordBytes 0x0000 0x01 []) := by
  decide
/-- `:00000001FF`, cut short for the first clause, whole for the second. -/
theorem witness_LineLengthFollowsTheByteCount :
    let short : List Byte := [0x3A, 0x30, 0x30, 0x30, 0x30, 0x30, 0x30, 0x30, 0x31, 0x46]
    let whole : List Byte := [0x3A, 0x30, 0x30, 0x30, 0x30, 0x30, 0x30, 0x30, 0x31, 0x46, 0x46]
    (short[0]? = some 0x3A ∧ hexByte short 1 = some 0 ∧ hexByte short 3 = some 0 ∧ hexByte short 5 = some 0 ∧
      hexByte short 7 = some 1 ∧ short.length < 11 + 2 * (0 : Byte).toNat) ∧
    (whole[0]? = some 0x3A ∧ hexByte whole 1 = some 0 ∧ hexByte whole 3 = some 0 ∧ hexByte whole 5 = some 0 ∧
      hexByte whole 7 = some 1 ∧ 11 + 2 * (0 : Byte).toNat ≤ whole.length) := by decide
theorem witness_ParsedRecordsAreGenuine :
    parse [0x3A, 0x30, 0x30, 0x30, 0x30, 0x30, 0x30, 0x30, 0x31, 0x46, 0x46] = .ok ⟨0x0000, 0x01, [], 0xFF⟩ := by
  decide
theorem witness_StripRemovesTrailingLineEndings :
    (∀ c ∈ ([0x0D, 0x0A] : List Byte), c = 0x0D ∨ c = 0x0A) ∧ ([0x3A, 0x46] : List Byte).getLast? ≠ some 0x0D ∧
    ([0x3A, 0x46] : List Byte).getLast? ≠ some 0x0A := by decide

/-! Requests -/

theorem witness_GatedOperationsRefusedUnsupported :
    let s := { rdy5 with cmdSet := [0x21] }
    gateOpcode s.cfg .read = some 0x11 ∧ s.busy = false ∧ 0x11 ∉ s.cmdSet ∧ committing.phase = .hsCommit ∧
    committing.getBuf = 0x31 :: [0x21] := by decide
theorem witness_RefusalOrderStateThenOperands :
    let faulted := { rdy5 with session := .faulted }
    (faulted.busy = false ∧ faulted.cfg.opRead ∈ faulted.cmdSet ∧ faulted.session ≠ .ready) ∧
    (rdy5.busy = false ∧ rdy5.cfg.opRead ∈ rdy5.cmdSet ∧ rdy5.session = .ready ∧ (counts rdy5 257).args.len = 257 ∧
      (counts rdy5 0).args.len = 0) ∧ (Config.opGo ∈ rdy5.cmdSet ∧ rdy5.entry = none) := by decide
theorem witness_HandshakeStartsANewSession : rdy5.busy = false := rfl
theorem witness_AdmittedRequestsStart :
    rdy5.busy = false ∧ rdy5.session = .ready ∧ rdy5.cfg.opRead ∈ rdy5.cmdSet ∧ rdy5.cfg.opWrite ∈ rdy5.cmdSet ∧
    rdy5.cfg.opErase ∈ rdy5.cmdSet ∧ (0x21 : Byte) ∈ rdy5.cmdSet ∧ (counts rdy5 1).args.len = 1 ∧
    (counts rdy5 256).args.len = rdy5.cfg.frameMax ∧ (counts rdy5 127).args.npages = 127 ∧
    { rdy5 with entry := some 0 }.entry ≠ none := by decide
theorem witness_BusyPortAcceptsNothing :
    ∃ t, (going (.goAddr .await) [.bytes [0x79]]).busy = true ∧ NoReset (going (.goAddr .await) [.bytes [0x79]]) ∧
      step (going (.goAddr .await) [.bytes [0x79]]) = .next t := ⟨_, rfl, noReset_of_empty rfl, rfl⟩

/-! Frames and responses -/

theorem witness_FrameIsOneTransmit :
    isFrame (.addr 0x08000000) = true ∧ (going (.goAddr .send) []).nextTxReply = .ok ∧
    { going (.goAddr .send) [] with env.txReplies := [.error] }.nextTxReply = .error := by decide
theorem witness_AckMovesToTheNextStage :
    (shakingAt .hsSyncAck).phase = .hsSyncAck ∧ (busyAt .get (.getCmd .await)).phase = .getCmd .await ∧
    (busyAt .read (.rdCmd .await)).phase = .rdCmd .await ∧ (busyAt .read (.rdAddr .await)).phase = .rdAddr .await ∧
    (busyAt .read (.rdLen .await)).phase = .rdLen .await ∧ (busyAt .write (.wrCmd .await)).phase = .wrCmd .await ∧
    (busyAt .write (.wrAddr .await)).phase = .wrAddr .await ∧ (busyAt .write (.wrPay .await)).phase = .wrPay .await ∧
    (busyAt .write (.wrPay .await)).op ≠ .upload ∧ (busyAt .erase (.erCmd .await)).phase = .erCmd .await ∧
    (busyAt .erase (.erPay .await)).phase = .erPay .await ∧ (busyAt .go (.goCmd .await)).phase = .goCmd .await ∧
    (busyAt .go (.goAddr .await)).phase = .goAddr .await ∧ rdy5.phase.awaitsAck = false := by decide
/-- With chunks of 2 bytes the first of the two is behind; with the default chunk the only one is. -/
theorem witness_AckOfAChunkAdvancesTheRecord :
    let s := { uploading (.wrPay .await) record4 with cfg.chunk := 2 }
    (s.phase = .wrPay .await ∧ s.op = .upload ∧ s.record = record4 ∧ s.chunkOff < record4.count) ∧
    s.chunkOff + min s.cfg.chunk (record4.count - s.chunkOff) < record4.count ∧
    (s.cfg.opWrite ∈ s.cmdSet ∧ s.session = .ready) ∧
    { s with cmdSet := [] }.cfg.opWrite ∉ { s with cmdSet := [] }.cmdSet ∧
    { s with session := .faulted }.session ≠ .ready ∧
    ¬ (uploading (.wrPay .await) record4).chunkOff + min (uploading (.wrPay .await) record4).cfg.chunk
        (record4.count - (uploading (.wrPay .await) record4).chunkOff) < record4.count := by decide
theorem witness_OtherResponsesAreProtocolNack :
    (0x00 : Byte) ≠ 0x79 ∧ (busyAt .go (.goAddr .await)).phase.awaitsAck = true ∧ rdy5.phase.awaitsAck = false := by
  decide
theorem witness_ReceivedBytesFillTheBuffers :
    (shakingAt (.getList 15)).phase = .getList 15 ∧ (shakingAt (.getList 15)).op = .handshake ∧
    (List.replicate 15 (0 : Byte)).length + 1 ≤ (shakingAt (.getList 15)).cfg.getBufCap ∧
    (busyAt .get (.getList 1)).op ≠ .handshake ∧
    (busyAt .get (.getList 16)).cfg.getBufCap < (List.replicate 16 (0 : Byte)).length + 1 ∧
    (busyAt .read .rdData).phase = .rdData := by decide
theorem witness_DataRecordStartsItsWrite :
    ([0x01] : List Byte) ≠ [] ∧ (uploading .upDispatch record4).cfg.opWrite ∈ (uploading .upDispatch record4).cmdSet ∧
    (uploading .upDispatch record4).session = .ready ∧
    rdy5.cfg.opWrite ∉ { rdy5 with cmdSet := [] }.cmdSet ∧ { rdy5 with session := .faulted }.session ≠ .ready := by
  decide

/-! The step -/

theorem witness_StepReadsTheResetInput :
    rdy5.env.resetLine = [] ∧ { rdy5 with env.resetLine := [false] }.env.resetLine = false :: [] ∧
    { rdy5 with env.resetLine := [true] }.env.resetLine = true :: [] := by decide
theorem witness_StepRunsTheDecodedInstruction :
    (decode Params.default .opSelect [(1 : BitVec 3).setWidth 8] = .ok .get ∧ (asked rdy5 1 []).phase = .idle ∧
      (asked rdy5 1 []).busy = false ∧ (asked rdy5 1 []).env.host.length = 1) ∧
    ((going (.goAddr .await) [.bytes [0x79]]).phase.awaitsAck = true ∧
      (going (.goAddr .await) [.bytes [0x79]]).nextRxReply 1 = .ok [0x79] ∧
      decode Params.default .response [0x79] = .ok .ack) ∧
    ((hearing (busyAt .get (.getList 0)) [.bytes [0x31]]).nextRxReply 1 = .ok [0x31] ∧
      decode Params.default .getRsp [0x00, 0x31] = .ok (.getRsp 0x31 [])) ∧
    ((hearing (counts (busyAt .read .rdData) 1) [.bytes [0xAA]]).nextRxReply 1 = .ok [0xAA] ∧
      decode Params.default .readData [0xAA] = .ok (.rdData [0xAA])) ∧
    (let line : List Byte := [0x3A, 0x30, 0x30, 0x30, 0x30, 0x30, 0x30, 0x30, 0x31, 0x46, 0x46]
     { busyAt .upload .upParse with line := line }.phase = .upParse ∧
      decode Params.default .hexLine line = .ok (.recEof 0 [])) := by decide
theorem witness_StepSendsTheFrameOfThePhase :
    (shakingAt .hsSyncTx).phase = .hsSyncTx ∧ (busyAt .get (.getCmd .send)).phase = .getCmd .send ∧
    (busyAt .read (.rdCmd .send)).phase = .rdCmd .send ∧ (busyAt .read (.rdAddr .send)).phase = .rdAddr .send ∧
    (busyAt .write (.wrCmd .send)).phase = .wrCmd .send ∧ (busyAt .erase (.erCmd .send)).phase = .erCmd .send ∧
    (busyAt .go (.goCmd .send)).phase = .goCmd .send ∧ (busyAt .write (.wrAddr .send)).op ≠ .upload ∧
    (busyAt .write (.wrPay .send)).phase = .wrPay .send ∧
    (uploading (.wrAddr .send) record4).record = record4 ∧ (uploading (.wrPay .send) record4).op = .upload ∧
    (busyAt .erase (.erPay .send)).phase = .erPay .send ∧ (busyAt .go (.goAddr .send)).op ≠ .goEntry ∧
    { busyAt .goEntry (.goAddr .send) with entry := some 0 }.entry = some 0 := by decide
theorem witness_PlacedInstructionRuns : Instr.wf rdy5.cfg (.pay [0x01]) = true := by decide
theorem witness_DrainDiscardsUntilAReceiveFails :
    (shakingAt .hsDrain).phase = .hsDrain ∧ (hearing (shakingAt .hsDrain) [.bytes [0x55]]).nextRxReply 1 = .ok [0x55] ∧
    (hearing (shakingAt .hsDrain) [.timeout]).nextRxReply 1 = .timeout ∧
    (hearing (shakingAt .hsDrain) [.error]).nextRxReply 1 = .error ∧
    (hearing (shakingAt .hsDrain) [.bytes [0x55], .bytes [0x55]]).env.rxEvents = List.replicate 2 (.bytes [0x55]) := by
  decide
theorem witness_GetLengthByteMeetsTheCapacity :
    (shakingAt .getLen).phase = .getLen ∧ (hearing (shakingAt .getLen) [.bytes [0x10]]).nextRxReply 1 = .ok [0x10] ∧
    (shakingAt .getLen).cfg.getBufCap < (0x10 : Byte).toNat + 1 ∧
    (hearing (shakingAt .getLen) [.bytes [0x0F]]).nextRxReply 1 = .ok [0x0F] ∧
    (0x0F : Byte).toNat + 1 ≤ (shakingAt .getLen).cfg.getBufCap := by decide
theorem witness_ReceiveDeliversAllOrFails :
    (hearing (busyAt .read .rdData) [.bytes [0x01, 0x02, 0x03]]).nextRxReply 2 = .ok [0x01, 0x02] ∧
    (hearing (busyAt .read .rdData) [.bytes [0x01]]).nextRxReply 2 = .timeout ∧
    (hearing (busyAt .read .rdData) [.error]).nextRxReply 2 = .error ∧
    (busyAt .go (.goAddr .await)).phase.awaitsAck = true ∧ (busyAt .get .getLen).phase = .getLen ∧
    (busyAt .get (.getList 5)).phase = .getList 5 := by decide
theorem witness_EachReceiveHasItsTimeout :
    NoReset (hearing (shakingAt .hsDrain) [.timeout]) ∧
    (∃ t, step (hearing (shakingAt .hsDrain) [.timeout]) = .next t) ∧
    (∃ t, step (hearing (shakingAt .hsSyncAck) [.timeout]) = .next t) ∧
    (∃ t, step (hearing (busyAt .get (.getCmd .await)) [.timeout]) = .next t) ∧
    (∃ t, step (hearing (busyAt .write (.wrPay .await)) [.timeout]) = .next t) ∧
    (∃ t, step (hearing (busyAt .erase (.erPay .await)) [.timeout]) = .next t) ∧
    (∃ t, step (hearing (busyAt .get .getLen) [.timeout]) = .next t) ∧
    (∃ t, step (hearing (busyAt .get (.getList 2)) [.timeout]) = .next t) ∧
    (∃ t, step (hearing (busyAt .read .rdData) [.timeout]) = .next t) :=
  ⟨noReset_of_empty rfl, ⟨_, rfl⟩, ⟨_, rfl⟩, ⟨_, rfl⟩, ⟨_, rfl⟩, ⟨_, rfl⟩, ⟨_, rfl⟩, ⟨_, rfl⟩, ⟨_, rfl⟩⟩
theorem witness_CommitLeavesOutTheVersionByte :
    committing.phase = .hsCommit ∧ committing.getBuf = 0x31 :: [0x21] := by decide
theorem witness_UploadTakesStripsAndParsesALine :
    let s := busyAt .upload .upNext
    s.phase = .upNext ∧ s.env.lines = [] ∧ { s with env.lines := [.line [0x3A]] }.env.lines = .line [0x3A] :: [] ∧
    { s with env.lines := [.error] }.env.lines = .error :: [] ∧
    (busyAt .upload .upStrip).phase = .upStrip ∧ (busyAt .upload .upParse).phase = .upParse ∧
    parse [0x3A, 0x30, 0x30, 0x30, 0x30, 0x30, 0x30, 0x30, 0x31, 0x46, 0x46] = .ok ⟨0, 0x01, [], 0xFF⟩ ∧
    parse [0x3A, 0x30, 0x30, 0x30, 0x30, 0x30, 0x30, 0x30, 0x32, 0x46, 0x45] = .err .unknownType ∧
    parse [] = .err .noMarker ∧ Reject.noMarker ≠ .unknownType := by decide
theorem witness_HostReadsOnlyWhileIdle :
    (∃ v, { rdy5 with line := [0x3A] }.hostView = some v ∧ v.line = [0x3A] ∧ v.lineLen = none) ∧
    (∃ v, { rdy5 with op := .upload, line := [0x3A] }.hostView = some v ∧ v.line = [0x3A] ∧ v.lineLen = none) ∧
    ∃ v, { rdy5 with op := .upload, status := .malformedRecord, line := [0x3A] }.hostView = some v ∧
      v.line = [0x3A] ∧ v.lineLen = some 1 := ⟨⟨_, rfl, rfl, rfl⟩, ⟨_, rfl, rfl, rfl⟩, _, rfl, rfl, rfl⟩

/-! Whole operations -/

/-- The host asks `op` with `n` bytes or pages, and the channel acknowledges and then delivers `es`. -/
def target (s : State) (op : BitVec 3) (n : Nat) (es : List RxEvent) : State :=
  hearing { s with env.host := [⟨op, (counts s n).args, []⟩] } es

theorem witness_HandshakeRun :
    let s := target State.reset 0 0
      [.bytes [0x55], .timeout, .bytes [0x79], .bytes [0x79], .bytes [0x01], .bytes [0x31, 0x21]]
    s.busy = false ∧ s.phase = .idle ∧ s.env.resetLine = [] ∧ s.env.host = [⟨0, (counts s 0).args, []⟩] ∧
    ([0x21] : List Byte).length + 1 ≤ s.cfg.getBufCap ∧ s.env.txReplies = .ok :: .ok :: [.ok] ∧
    s.env.rxEvents = ([0x55] : List Byte).map (fun b => .bytes [b]) ++
      [.timeout, .bytes [0x79], .bytes [0x79], .bytes [BitVec.ofNat 8 1], .bytes (0x31 :: [0x21])] ++ [] := by
  intros; constructorm* _ ∧ _ <;> first | rfl | decide
theorem witness_GetRun :
    let s := target rdy5 1 0 [.bytes [0x79], .bytes [0x01], .bytes [0x31, 0x21]]
    s.busy = false ∧ s.phase = .idle ∧ s.session = .ready ∧ s.env.resetLine = [] ∧
    s.env.host = [⟨1, (counts s 0).args, []⟩] ∧ ([0x21] : List Byte).length + 1 ≤ s.cfg.getBufCap ∧
    s.env.txReplies = .ok :: [.ok, .ok] ∧
    s.env.rxEvents = [.bytes [0x79], .bytes [BitVec.ofNat 8 1], .bytes (0x31 :: [0x21])] ++ [] := by
  intros; constructorm* _ ∧ _ <;> first | rfl | decide
theorem witness_ReadRun :
    let s := target rdy5 2 4 [.bytes [0x79], .bytes [0x79], .bytes [0x79], .bytes [0xDE, 0xAD, 0xBE, 0xEF]]
    s.busy = false ∧ s.phase = .idle ∧ s.session = .ready ∧ s.env.resetLine = [] ∧
    s.env.host = [⟨2, (counts s 4).args, []⟩] ∧ s.cfg.opRead ∈ s.cmdSet ∧
    ([0xDE, 0xAD, 0xBE, 0xEF] : List Byte).length = (counts s 4).args.len ∧
    s.env.txReplies = .ok :: .ok :: .ok :: [] ∧
    s.env.rxEvents =
      [.bytes [0x79], .bytes [0x79], .bytes [0x79], .bytes [0xDE, 0xAD, 0xBE, 0xEF]] ++ [] := by
  intros; constructorm* _ ∧ _ <;> first | rfl | decide
theorem witness_WriteRun :
    let s := target rdy5 3 4 [.bytes [0x79], .bytes [0x79], .bytes [0x79]]
    s.busy = false ∧ s.phase = .idle ∧ s.session = .ready ∧ s.env.resetLine = [] ∧
    s.env.host = [⟨3, (counts s 4).args, []⟩] ∧ s.cfg.opWrite ∈ s.cmdSet ∧ (counts s 4).args.len = 4 ∧
    s.env.txReplies = .ok :: .ok :: .ok :: [] ∧
    s.env.rxEvents = [.bytes [0x79], .bytes [0x79], .bytes [0x79]] ++ [] := by
  intros; constructorm* _ ∧ _ <;> first | rfl | decide
theorem witness_EraseRun :
    let s := target rdy5 4 127 [.bytes [0x79], .bytes [0x79]]
    s.busy = false ∧ s.phase = .idle ∧ s.session = .ready ∧ s.env.resetLine = [] ∧
    s.env.host = [⟨4, (counts s 127).args, []⟩] ∧ s.cfg.opErase ∈ s.cmdSet ∧ (counts s 127).args.npages = 127 ∧
    s.env.txReplies = .ok :: .ok :: [.ok] ∧ s.env.rxEvents = [.bytes [0x79], .bytes [0x79]] ++ [] := by
  intros; constructorm* _ ∧ _ <;> first | rfl | decide
theorem witness_GoRun :
    let s := target { rdy5 with entry := some 0x08000131 } 6 0 [.bytes [0x79], .bytes [0x79]]
    let r := target rdy5 5 0 [.bytes [0x79], .bytes [0x79]]
    (s.busy = false ∧ s.phase = .idle ∧ s.session = .ready ∧ s.env.resetLine = [] ∧
      s.env.host = [⟨6, (counts s 0).args, []⟩] ∧ s.entry = some 0x08000131 ∧ (0x21 : Byte) ∈ s.cmdSet ∧
      s.env.txReplies = .ok :: .ok :: [.ok] ∧ s.env.rxEvents = [.bytes [0x79], .bytes [0x79]] ++ []) ∧
    r.env.host = [⟨5, (counts r 0).args, []⟩] := by
  intros; constructorm* _ ∧ _ <;> first | rfl | decide

/-- The records of the witness of the upload: an `ELA`, four bytes of data, an `SLA`. -/
def image : List Instr := [.recEla 0 0x08 0x00, .recData 0x0100 [0x01, 0x02, 0x03, 0x04], .recSla 0 0x08 0x00 0x01 0x31]

theorem witness_UploadWritesTheImage :
    let lines := (image ++ [Instr.recEof 0 []]).map
      (fun i => LineEvent.line (encode Params.default i ++ [0x0D, 0x0A])) ++ []
    let s := hearing (asked rdy5 7 lines) (List.replicate 3 (.bytes [0x79]))
    s.cfg.Valid ∧ s.busy = false ∧ s.phase = .idle ∧ s.session = .ready ∧ s.env.resetLine = [] ∧
    s.env.host = [⟨7, s.args, lines⟩] ∧ s.cfg.opWrite ∈ s.cmdSet ∧
    (∀ i ∈ image, i.wf s.cfg = true ∧ i.space = .hexLine ∧ ∀ a d, i ≠ .recEof a d) ∧
    (imageWrites s.cfg.chunk s.baseAddress image).length = 1 ∧
    s.env.txReplies = List.replicate (3 * 1) .ok ++ [] ∧
    s.env.rxEvents = List.replicate (3 * 1) (.bytes [0x79]) ++ [] := by
  refine ⟨by decide, rfl, rfl, rfl, rfl, rfl, by decide, ?_, by decide, rfl, rfl⟩
  simp [image, Instr.wf, Instr.space, Config.recDataMax]

/-! Invariants and rules of the whole machine: a state that meets the invariant, and a step that does what the
conclusion speaks of -/

theorem witness_StepKeepsTheInvariant :
    ∃ t, EngineInv (going (.goAddr .await) [.bytes [0x79]]) ∧
      step (going (.goAddr .await) [.bytes [0x79]]) = .next t ∧ t.session = .relinquished :=
  ⟨_, going_invariant _ _, rfl, rfl⟩
theorem witness_StepFromTheInvariantNeverStops : EngineInv rdy5 := rdy5_invariant
theorem witness_SessionMovesAsTheTableSays_handshake :
    ∃ t, EngineInv (asked rdy5 0 []) ∧ NoReset (asked rdy5 0 []) ∧ step (asked rdy5 0 []) = .next t ∧
      t.session ≠ rdy5.session := ⟨_, asked_invariant _ _, noReset_of_empty rfl, rfl, by decide⟩
theorem witness_SessionMovesAsTheTableSays_commit :
    ∃ t, EngineInv committing ∧ NoReset committing ∧ step committing = .next t ∧ t.session = .ready :=
  ⟨_, committing_invariant, noReset_of_empty rfl, rfl, rfl⟩
theorem witness_SessionMovesAsTheTableSays_fault :
    ∃ t, EngineInv (going (.goAddr .await) [.bytes [0x1F]]) ∧ NoReset (going (.goAddr .await) [.bytes [0x1F]]) ∧
      step (going (.goAddr .await) [.bytes [0x1F]]) = .next t ∧ t.session = .faulted :=
  ⟨_, going_invariant _ _, noReset_of_empty rfl, rfl, rfl⟩
theorem witness_SessionMovesAsTheTableSays_jump :
    ∃ t, EngineInv (going (.goAddr .await) [.bytes [0x79]]) ∧ NoReset (going (.goAddr .await) [.bytes [0x79]]) ∧
      step (going (.goAddr .await) [.bytes [0x79]]) = .next t ∧ t.session = .relinquished :=
  ⟨_, going_invariant _ _, noReset_of_empty rfl, rfl, rfl⟩
theorem witness_OnlyHandshakeLeavesFaultedOrRelinquished :
    (∃ t, EngineInv (asked { rdy5 with session := .faulted } 0 []) ∧
      NoReset (asked { rdy5 with session := .faulted } 0 []) ∧
      step (asked { rdy5 with session := .faulted } 0 []) = .next t ∧ t.session = .uninitialized) ∧
    (∃ t, EngineInv (asked { rdy5 with session := .relinquished } 1 []) ∧
      NoReset (asked { rdy5 with session := .relinquished } 1 []) ∧
      step (asked { rdy5 with session := .relinquished } 1 []) = .next t ∧ t.session = .relinquished) :=
  ⟨⟨_, env_invariant (shut_invariant _ (by decide)) _, noReset_of_empty rfl, rfl, rfl⟩,
    ⟨_, env_invariant (shut_invariant _ (by decide)) _, noReset_of_empty rfl, rfl, rfl⟩⟩
theorem witness_LaterFramesFollowAnAcknowledge_start :
    ∃ t, EngineInv (asked rdy5 7 []) ∧ NoReset (asked rdy5 7 []) ∧ step (asked rdy5 7 []) = .next t ∧
      (asked rdy5 7 []).busy = false ∧ t.busy = true :=
  ⟨_, asked_invariant _ _, noReset_of_empty rfl, rfl, rfl, rfl⟩

/-- An upload about to dispatch a record when a frame has been sent and its ACK was the last call. -/
def secondRecord : State :=
  { uploading (.wrCmd .send) record4 with
    env.trace := [.tx [0x03] 1 .ok, .rx 1 1 (.ok [0x79])], env.txReplies := [.ok] }

theorem secondRecord_invariant : EngineInv secondRecord :=
  have d := rdy5_invariant
  ⟨d.params, ⟨fun _ => Phase.noConfusion, fun _ => rfl⟩, ⟨by decide, .inr ⟨rfl, rfl, rfl, by decide⟩⟩,
    fun _ => Op.noConfusion, fun _ _ => rfl, d.fresh, d.base, d.setFits, d.getFits, d.readFits, d.txFits,
    fun _ => ⟨⟨by decide, by decide, by decide, by decide, by decide⟩, rfl, rfl⟩, by decide⟩

theorem witness_LaterFramesFollowAnAcknowledge_step :
    ∃ t f tm p, EngineInv secondRecord ∧ NoReset secondRecord ∧ step secondRecord = .next t ∧
      0 ≤ secondRecord.env.trace.length ∧ secondRecord.busy = true ∧ AckDiscipline 0 secondRecord ∧
      t.env.trace = secondRecord.env.trace ++ [.tx f tm p] ∧ SentSince 0 secondRecord :=
  ⟨_, _, _, _, secondRecord_invariant, noReset_of_empty rfl, rfl, Nat.zero_le _, rfl,
    ⟨fun _ => ⟨1, rfl⟩, Phase.noConfusion, fun _ _ => ⟨1, rfl⟩⟩, rfl, [0x03], 1, .ok, by decide⟩

/-- The record of `:020000040800F2` (R252) and that of `:0400000508000131BD` (R253). -/
def recordEla : Record := ⟨0x0000, 0x04, [0x08, 0x00], 0xF2⟩
def recordSla : Record := ⟨0x0000, 0x05, [0x08, 0x00, 0x01, 0x31], 0xBD⟩

theorem recordEla_genuine : Genuine recordEla :=
  ⟨by show 2 ≤ 255; decide, by decide, by decide, by decide, by decide⟩
theorem recordSla_genuine : Genuine recordSla :=
  ⟨by show 4 ≤ 255; decide, by decide, by decide, by decide, by decide⟩

theorem witness_AddressRegistersWrittenByRecordsOnly :
    (∃ t, EngineInv (uploading .upDispatch recordEla) ∧ NoReset (uploading .upDispatch recordEla) ∧
      step (uploading .upDispatch recordEla) = .next t ∧ t.baseAddress ≠ rdy5.baseAddress) ∧
    (∃ t, EngineInv (uploading .upDispatch recordSla) ∧ NoReset (uploading .upDispatch recordSla) ∧
      step (uploading .upDispatch recordSla) = .next t ∧ t.entry ≠ rdy5.entry) :=
  ⟨⟨_, uploading_invariant _ recordEla_genuine, noReset_of_empty rfl, rfl, by decide⟩,
    ⟨_, uploading_invariant _ recordSla_genuine, noReset_of_empty rfl, rfl, by decide⟩⟩
theorem witness_OperationsEndInTheirKinds :
    ∃ t, EngineInv (going (.goAddr .await) [.bytes [0x1F]]) ∧ NoReset (going (.goAddr .await) [.bytes [0x1F]]) ∧
      step (going (.goAddr .await) [.bytes [0x1F]]) = .next t ∧ t.status ≠ .ok ∧ t.busy = false :=
  ⟨_, going_invariant _ _, noReset_of_empty rfl, rfl, by decide, rfl⟩
theorem witness_EveryTransmitIsAnAdmittedFrame :
    ∃ t, EngineInv (going (.goCmd .send) []) ∧ NoReset (going (.goCmd .send) []) ∧
      step (going (.goCmd .send) []) = .next t ∧
      t.env.trace = (going (.goCmd .send) []).env.trace ++ [.tx [0x21, 0xDE] 1 .ok] :=
  ⟨_, goCmd_invariant _ _, noReset_of_empty rfl, rfl, by decide⟩
theorem witness_StepMakesAtMostOneCall : ∃ t, step (going (.goCmd .send) []) = .next t := ⟨_, rfl⟩

end Sys2Proof.Tests
end

section
/-! The model's interface and the granularity of a step (00_scope.md R2, R7; 92_eei_decisions.md D1): a placed instruction is
what the next step executes, and a step makes at most one channel call and writes no parameter. -/

namespace Sys2Proof.Machine

/-! ### What the fetch finds in a placed state (log 16) -/

/-- The op select code of an operation asks for that operation (R118). -/
@[simp] theorem decodeOp_code (o : Op) : decodeOp o.code = o.toInstr := by cases o <;> rfl

theorem State.fetch_requesting (s : State) (o : Op) :
    (s.requesting o).fetch =
      .run o.toInstr ((s.requesting o).latch ⟨o.code, s.args, s.env.lines⟩ s.env.host) := by
  rw [← decodeOp_code]; rfl

theorem State.fetch_dispatching (s : State) {r : Record} {i : Instr} (h : r.toInstr = some i) :
    (s.dispatching r).fetch = .run i (s.dispatching r) := by
  simp [State.fetch, State.fetchRecord, State.dispatching, h]

theorem State.receive_of_ok {s : State} {n : Nat} {b : List Byte} (h : s.nextRxReply n = .ok b) (t : Nat)
    (got : List Byte → State → Fetch) : s.receive n t got = got b (s.rx n t) := by
  simp [State.receive, h]

/-- A receive of exactly the bytes the channel is about to deliver (R142) goes on with them. -/
theorem State.receive_delivering (s : State) (b : List Byte) (t : Nat) (got : List Byte → State → Fetch) :
    (s.delivering b).receive b.length t got = got b ((s.delivering b).rx b.length t) :=
  State.receive_of_ok (by simp [State.nextRxReply, State.delivering, RxEvent.reply]) t got

theorem State.fetch_responding (s : State) (r : Byte) :
    ((s.inside .handshake .hsSyncAck).delivering [r]).fetch =
      .run (decodeResponse r) (((s.inside .handshake .hsSyncAck).delivering [r]).rx 1 s.cfg.tSync) :=
  (fetch_response (s := (s.inside .handshake .hsSyncAck).delivering [r]) rfl).trans
    (State.receive_delivering (s.inside .handshake .hsSyncAck) [r] s.cfg.tSync _)

theorem State.fetch_getList_delivering (s : State) {n v : Byte} {ops : List Byte} (h : ops.length = n.toNat) :
    ((s.inside .get (.getList n)).delivering (v :: ops)).fetch =
      .run (.getRsp v ops)
        (((s.inside .get (.getList n)).delivering (v :: ops)).rx (ops.length + 1) s.cfg.tData) := by
  have hf : ((s.inside .get (.getList n)).delivering (v :: ops)).fetch =
      ((s.inside .get (.getList n)).delivering (v :: ops)).fetchGetList n := rfl
  rw [hf, State.fetchGetList, ← h]
  exact State.receive_delivering (s.inside .get (.getList n)) (v :: ops) s.cfg.tData _

theorem decodeResponse_rspOther {r : Byte} (ha : r ≠ Config.ack) (hn : r ≠ Config.nack) :
    decodeResponse r = .rspOther r := by
  simp only [decodeResponse, if_neg ha, if_neg hn]

/-- The first entries of a filled register array are the entries it was filled with. -/
theorem take_fillFront {α : Type} {n : Nat} (v : Vector α n) {xs : List α} (h : xs.length ≤ n) :
    (fillFront v xs).toList.take xs.length = xs := by
  simp [fillFront, List.take_take, Nat.min_eq_left h]

/-- The byte of a count is its predecessor (R101). -/
theorem countByte_toNat_succ (n : Byte) : countByte (n.toNat + 1) = n := by
  simp [countByte]

/-! ### The step of a placed state -/

/-- The placed state once its released reset level has been read. -/
def State.placed (i : Instr) (s : State) : State :=
  { s.place i with env.resetLine := s.env.resetLine }

theorem step_place (i : Instr) (s : State) : step (s.place i) = engineStep (s.placed i) := by
  cases i <;> rfl

theorem State.placed_cfg (i : Instr) (s : State) : (s.placed i).cfg = s.cfg := by cases i <;> rfl

theorem State.placed_session (i : Instr) (s : State) : (s.placed i).session = s.session := by cases i <;> rfl

/-- The fetch finds the placed instruction, in the presented state. -/
theorem State.fetch_placed {i : Instr} {s : State} (hw : i.wf s.cfg = true) :
    (s.placed i).fetch = .run i (s.presented i) := by
  cases i with
  | handshake => exact s.fetch_requesting .handshake
  | get => exact s.fetch_requesting .get
  | read => exact s.fetch_requesting .read
  | write => exact s.fetch_requesting .write
  | erase => exact s.fetch_requesting .erase
  | go => exact s.fetch_requesting .go
  | goEntry => exact s.fetch_requesting .goEntry
  | upload => exact s.fetch_requesting .upload
  | sync | cmdGet | cmdRead | cmdWrite | cmdErase | cmdGo | addr a => rfl
  | len n => exact congrArg (fun m => Fetch.run (.len m) _) (countByte_toNat_succ n)
  | pay d =>
    have hd : d.length ≤ 256 := (of_decide_eq_true hw).2.2
    exact congrArg (fun b => Fetch.run (.pay b) _) (take_fillFront s.args.data hd)
  | erasePay ps =>
    have hp : ps.length ≤ Config.eraseMaxPages := (of_decide_eq_true hw).2
    exact congrArg (fun q => Fetch.run (.erasePay q) _) (take_fillFront s.args.pages hp)
  | ack => exact s.fetch_responding Config.ack
  | nack => exact s.fetch_responding Config.nack
  | rspOther r =>
    obtain ⟨ha, hn⟩ : r ≠ Config.ack ∧ r ≠ Config.nack := of_decide_eq_true hw
    have hf := s.fetch_responding r
    rw [decodeResponse_rspOther ha hn] at hf
    exact hf
  | getRsp v ops =>
    have hops : ops.length ≤ 255 := of_decide_eq_true hw
    exact s.fetch_getList_delivering (by simp; omega)
  | rdData d =>
    exact State.receive_delivering { s.inside .read .rdData with args.len := d.length } d s.cfg.tData _
  | recData a d => exact s.fetch_dispatching (r := Record.make a 0x00 d) rfl
  | recEof a d => exact s.fetch_dispatching (r := Record.make a 0x01 d) rfl
  | recEla a d0 d1 => exact s.fetch_dispatching (r := Record.make a 0x04 [d0, d1]) rfl
  | recSla a d0 d1 d2 d3 => exact s.fetch_dispatching (r := Record.make a 0x05 [d0, d1, d2, d3]) rfl

/-- Presenting an instruction latches operands or makes a receive: neither writes a parameter or the session state. -/
theorem State.presented_cfg_session (i : Instr) (s : State) :
    (s.presented i).cfg = s.cfg ∧ (s.presented i).session = s.session := by
  have hp : (s.placed i).cfg = s.cfg ∧ (s.placed i).session = s.session :=
    ⟨s.placed_cfg i, s.placed_session i⟩
  cases i with
  | ack | nack | rspOther r | getRsp v ops | rdData d =>
    exact ⟨(State.rx_cfg ..).trans hp.1, (State.rx_session ..).trans hp.2⟩
  | _ => exact hp

/-- Settles O34: the fetch of the placed state runs the instruction in the presented state. -/
theorem placedInstructionRuns : Obligations.PlacedInstructionRuns := by
  intro i s hw
  refine ⟨?_, s.presented_cfg_session i⟩
  rw [step_place, engineStep, State.fetch_placed hw]

/-! ### At most one channel call a step (92_eei_decisions.md D1; log 7) -/

/-- From `s` to `t` no channel call is made and no parameter is written. -/
structure MakesNoCall (s t : State) : Prop where
  cfg : t.cfg = s.cfg
  trace : t.env.trace = s.env.trace

/-- From `s` to `t` at most one channel call is made, the calls before it stay, and no parameter is written. -/
def MakesAtMostOneCall (s t : State) : Prop :=
  t.cfg = s.cfg ∧ ∃ calls : List ChanCall, calls.length ≤ 1 ∧ t.env.trace = s.env.trace ++ calls

theorem MakesNoCall.after {s u t : State} (ht : MakesNoCall u t) (hu : MakesNoCall s u) : MakesNoCall s t :=
  ⟨ht.cfg.trans hu.cfg, ht.trace.trans hu.trace⟩

theorem MakesNoCall.atMostOne {s t : State} (h : MakesNoCall s t) : MakesAtMostOneCall s t :=
  ⟨h.cfg, [], Nat.zero_le 1, by rw [h.trace, List.append_nil]⟩

theorem atMostOneCall_of_rx {s t : State} {n tm : Nat} (h : MakesNoCall (s.rx n tm) t) : MakesAtMostOneCall s t :=
  ⟨by rw [h.cfg, State.rx_cfg], [_], Nat.le_refl 1, by rw [h.trace, State.rx_trace]⟩

theorem atMostOneCall_of_tx {s t : State} {f : List Byte} (h : MakesNoCall (s.tx f) t) : MakesAtMostOneCall s t :=
  ⟨by rw [h.cfg, State.tx_cfg], [_], Nat.le_refl 1, by rw [h.trace, State.tx_trace]⟩

theorem makesNoCall_stageFails (s : State) (k : Status) : MakesNoCall s (s.stageFails k) := ⟨rfl, rfl⟩

theorem makesNoCall_endDispatch (s : State) : MakesNoCall s s.endDispatch := ⟨rfl, rfl⟩

theorem makesNoCall_nextChunk (s : State) : MakesNoCall s s.nextChunk := by
  rcases s.nextChunk_cases with ⟨_, _, _, e⟩ | ⟨⟨k, _, e⟩, _⟩ | ⟨_, e⟩ <;> rw [e] <;> exact ⟨rfl, rfl⟩

theorem makesNoCall_writeDone (s : State) : MakesNoCall s s.writeDone := by
  unfold State.writeDone
  split
  · exact (makesNoCall_nextChunk _).after ⟨rfl, rfl⟩
  · exact ⟨rfl, rfl⟩

theorem makesNoCall_acknowledged (s : State) : MakesNoCall s s.acknowledged := by
  unfold State.acknowledged
  split
  case h_8 => exact makesNoCall_writeDone s -- the ACK of a payload
  all_goals exact ⟨rfl, rfl⟩

theorem makesNoCall_getLengthByte (s : State) (n : Byte) : MakesNoCall s (s.getLengthByte n) := by
  rcases s.getLengthByte_cases n with ⟨_, e⟩ | ⟨_, e⟩ <;> rw [e] <;> exact ⟨rfl, rfl⟩

theorem makesNoCall_getDone (s : State) : MakesNoCall s s.getDone := by
  unfold State.getDone; split <;> exact ⟨rfl, rfl⟩

theorem makesNoCall_getRsp {s t : State} {v : Byte} {ops : List Byte} (h : exec (.getRsp v ops) s = .next t) :
    MakesNoCall s t := by
  rcases getRsp_cases h with rfl | rfl | rfl
  · exact ⟨rfl, rfl⟩
  · exact makesNoCall_stageFails s .bufferTooSmall
  · exact (makesNoCall_getDone _).after ⟨rfl, rfl⟩

theorem makesNoCall_rdData {s t : State} {d : List Byte} (h : exec (.rdData d) s = .next t) : MakesNoCall s t := by
  rcases rdData_cases h with rfl | rfl <;> exact ⟨rfl, rfl⟩

theorem makesNoCall_record {s t : State} {r : Record} {i : Instr} (hr : r.toInstr = some i)
    (h : exec i s = .next t) : MakesNoCall s t := by
  rcases record_cases hr h with ⟨_, rfl⟩ | ⟨_, rfl⟩ | ⟨_, _, _, _, rfl⟩ | ⟨_, _, _, _, _, _, rfl⟩
  · exact (makesNoCall_nextChunk _).after ⟨rfl, rfl⟩
  · exact ⟨rfl, rfl⟩
  · exact (makesNoCall_endDispatch _).after ⟨rfl, rfl⟩
  · exact (makesNoCall_endDispatch _).after ⟨rfl, rfl⟩

theorem makesNoCall_nextLine (s : State) : MakesNoCall s s.nextLine := by
  unfold State.nextLine; split <;> exact ⟨rfl, rfl⟩

theorem makesNoCall_parseLine (s : State) : MakesNoCall s s.parseLine := by
  unfold State.parseLine; split <;> exact ⟨rfl, rfl⟩

/-- A request makes no call when its first actions make none. -/
theorem makesNoCall_request (s : State) (o : Op) {start : State → State} (h : ∀ u, MakesNoCall u (start u)) :
    MakesNoCall s (s.request o start) := by
  rcases s.request_cases o start with ⟨_, e⟩ | ⟨_, k, _, e⟩ | ⟨_, _, e⟩ <;> rw [e]
  · exact ⟨rfl, rfl⟩
  · exact ⟨rfl, rfl⟩
  · exact (h _).after ⟨rfl, rfl⟩

theorem makesNoCall_operation {s t : State} (o : Op) (h : exec o.toInstr s = .next t) : MakesNoCall s t := by
  cases o <;> obtain rfl := Host.Outcome.next.inj h <;> exact makesNoCall_request s _ fun _ => ⟨rfl, rfl⟩

/-- Every move of the engine makes at most one channel call. -/
theorem EngineMove.atMostOneCall {s t : State} (h : EngineMove s t) : MakesAtMostOneCall s t := by
  cases h with
  | wait | commit | stripLine => exact MakesNoCall.atMostOne ⟨rfl, rfl⟩
  | request _ _ _ he => exact ((makesNoCall_operation _ he).after ⟨rfl, rfl⟩).atMostOne
  | send =>
    rcases s.sendFrame_cases _ with ⟨_, e⟩ | ⟨_, e⟩ <;> rw [e]
    · exact atMostOneCall_of_tx ⟨rfl, rfl⟩
    · exact atMostOneCall_of_tx (makesNoCall_stageFails _ _)
  | acked => exact atMostOneCall_of_rx (makesNoCall_acknowledged _)
  | nacked | silent | broken => exact atMostOneCall_of_rx (makesNoCall_stageFails _ _)
  | drain => rcases s.drainOnce_cases with e | e <;> rw [e] <;> exact atMostOneCall_of_rx ⟨rfl, rfl⟩
  | getLen => exact atMostOneCall_of_rx (makesNoCall_getLengthByte _ _)
  | getList _ _ _ he => exact atMostOneCall_of_rx (makesNoCall_getRsp he)
  | readData _ _ _ he => exact atMostOneCall_of_rx (makesNoCall_rdData he)
  | nextLine => exact (makesNoCall_nextLine s).atMostOne
  | parseLine => exact (makesNoCall_parseLine s).atMostOne
  | dispatch _ _ hi he => exact (makesNoCall_record hi he).atMostOne

/-- Settles O58: a reset makes no call, and every move of the engine at most one. -/
theorem stepMakesAtMostOneCall : Obligations.StepMakesAtMostOneCall := by
  intro s t h
  by_cases hn : NoReset s
  · have hm := (step_move h hn).atMostOneCall
    exact hm
  · obtain ⟨rest, hl⟩ : ∃ rest, s.env.resetLine = true :: rest := by
      simpa [NoReset, List.head?_eq_some_iff] using hn
    rw [step_reset hl] at h
    obtain rfl := Host.Outcome.next.inj h
    exact MakesNoCall.atMostOne ⟨rfl, rfl⟩

end Sys2Proof.Machine
end

section
/-! The facts about single operations that the invariant and the safety statements of 10_state.md rest on: what a request
runs, what a channel call writes, and what an ended parse has checked. -/

namespace Sys2Proof.Machine

/-! ### Requests (R21, R200) -/

/-- The first actions of an operation once it is admitted (R172, R176, R201 to R205, R271). -/
def startOf : Op → State → State
  | .handshake => fun s =>
    { s with
      session := .uninitialized, cmdSet := [], baseAddress := 0x00000000, entry := none, phase := .hsDrain }
  | .get => State.beginGet
  | .read => fun s => { s with rdBuf := [], phase := .rdCmd .send }
  | .write => fun s => { s with phase := .wrCmd .send }
  | .erase => fun s => { s with phase := .erCmd .send }
  | .go => fun s => { s with phase := .goCmd .send }
  | .goEntry => fun s => { s with phase := .goCmd .send }
  | .upload => fun s => { s with lineIndex := 0, phase := .upNext }

/-- A request instruction is the request for its operation, with that operation's first actions. -/
theorem exec_operation (o : Op) (s : State) : exec o.toInstr s = .next (s.request o (startOf o)) := by
  cases o <;> rfl

theorem State.request_of_busy {s : State} (h : s.busy = true) (o : Op) (start : State → State) :
    s.request o start = s := by
  simp [State.request, State.accept, h]

/-- What an admitted operation finds: passed are the session check, the gate and the operand check (R181, R303). -/
theorem State.gated_eq_none {s : State} {x : Byte} {c : Option Status} (h : s.gated x c = none) :
    x ∈ s.cmdSet ∧ s.session = .ready ∧ c = none := by
  rcases s.gated_cases x c with ⟨_, e⟩ | ⟨_, _, e⟩ | ⟨hx, hs, e⟩
  · simp [e] at h
  · simp [e] at h
  · exact ⟨hx, hs, e ▸ h⟩

theorem State.readyCheck_eq_none {s : State} (h : s.readyCheck = none) : s.session = .ready := by
  simpa [State.readyCheck] using h

theorem rangeCheck_eq_none {n max : Nat} (h : rangeCheck n max = none) : 1 ≤ n ∧ n ≤ max := by
  simp [rangeCheck] at h; omega

/-- Every operation but `HANDSHAKE` is admitted in `Ready` only (R181). -/
theorem State.ready_of_admitted {s : State} {o : Op} (ho : o ≠ .handshake) (h : s.refusal o = none) :
    s.session = .ready := by
  cases o with
  | handshake => exact absurd rfl ho
  | get | upload => exact State.readyCheck_eq_none h
  | read | write | erase | go | goEntry =>
    obtain ⟨_, hs, _⟩ := State.gated_eq_none h
    exact hs

/-! ### Channel calls -/

/-- What a receive may write (R142). -/
theorem State.rx_writes (s : State) (n t : Nat) : ∃ e c, s.rx n t = { s with env := e, freeCtr := c } := by
  unfold State.rx State.afterRxReply; split <;> exact ⟨_, _, rfl⟩

/-- What a transmit may write (R141, R150). -/
theorem State.tx_writes (s : State) (f : List Byte) :
    ∃ e c, s.tx f = { s with txBuf := f, env := e, freeCtr := c } := by
  unfold State.tx State.afterTxReply; split <;> exact ⟨_, _, rfl⟩

/-! ### Failure (60_exceptions.md R305) -/

/-- No failure starts a new session. -/
theorem uninitialized_of_fail {k : Status} {x : Session}
    (e : (if k.faults then Session.faulted else x) = .uninitialized) : x = .uninitialized := by
  split at e
  · exact Session.noConfusion e
  · exact e

/-! ### Frame lengths (R36) -/

theorem State.chunkBytes_length_le (s : State) : s.chunkBytes.length ≤ s.cfg.chunk := by
  simp [State.chunkBytes]

theorem Operands.bytes_length_le (a : Operands) : a.bytes.length ≤ 256 := by
  simp [Operands.bytes]

theorem Operands.pageList_length_le (a : Operands) : a.pageList.length ≤ Config.eraseMaxPages :=
  (List.length_take_le' _ _).trans (by rw [Vector.length_toList])

theorem State.writeOperands_length_le {s : State} (h : s.cfg.Valid) : s.writeOperands.2.length ≤ 256 := by
  obtain ⟨_, _, hframe, _, _, _, hchunk, _⟩ := h
  unfold State.writeOperands
  split
  · exact s.chunkBytes_length_le.trans (hchunk.trans hframe)
  · exact s.args.bytes_length_le

/-- The longest frame is a full `F_PAY` of 258 bytes (R36, R100). -/
theorem Sends.length_le {s : State} {i : Instr} (h : Sends s i) (hc : s.cfg.Valid) :
    (encode s.cfg i).length ≤ 258 := by
  have hdata := State.writeOperands_length_le hc
  have hpages : s.args.pageList.length ≤ 127 := s.args.pageList_length_le
  cases h with
  | writePay => rw [Laws.EncodedLength.pay, Laws.EncodedLength.wireLength]; omega
  | erasePay => rw [Laws.EncodedLength.erasePay, Laws.EncodedLength.wireLength]; omega
  | _ => simp [encode, cmdFrame, withXor, addrBytes]

/-! ### Phases -/

@[simp] theorem Phase.sent_eq_idle (p : Phase) : p.sent = .idle ↔ p = .idle := by cases p <;> simp [Phase.sent]

@[simp] theorem Phase.sent_dispatches (p : Phase) : p.sent.dispatches = p.dispatches := by cases p <;> rfl

/-- An operation has the same operands before and after its frame is sent. -/
theorem phaseOk_sent {s : State} (h : PhaseOk s) : PhaseOk { s with phase := s.phase.sent } := by
  cases hp : s.phase <;> simp only [PhaseOk, hp] at h <;> exact h

/-! ### Records (43_hex_parser.md R245 to R248) -/

/-- The record of a `DATA` instruction is genuine, its data within the capacity. -/
theorem genuine_make_data (a : Half16) {d : List Byte} (h : d.length ≤ Config.recDataMax) :
    Genuine (Record.make a 0x00 d) where
  count := h
  cksum := rfl
  type := .inl rfl
  ela := fun h => absurd h (by decide : (0x00 : Byte) ≠ 0x04)
  sla := fun h => absurd h (by decide : (0x00 : Byte) ≠ 0x05)

theorem genuine_of_parseChecked {a : Half16} {ty ck : Byte} {d : List Byte} {r : Record}
    (hd : d.length ≤ Config.recDataMax) (h : parseChecked a ty d ck = .ok r) : Genuine r := by
  unfold parseChecked at h
  split_ifs at h with hck hty hela hsla
  obtain rfl := Parsed.ok.inj h
  exact {
    count := hd
    cksum := not_not.mp hck
    type := by by_contra hne; exact hty (by simpa using hne)
    ela := fun e => by_contra fun hne => hela ⟨e, hne⟩
    sla := fun e => by_contra fun hne => hsla ⟨e, hne⟩ }

theorem genuine_of_parse {chars : List Byte} {r : Record} (h : parse chars = .ok r) : Genuine r := by
  obtain ⟨bc, _, _, _, d, _, _, _, _, _, _, _, _, _, hd, hr⟩ := parse_ok_cases h
  exact genuine_of_parseChecked (hd ▸ Nat.le_of_lt_succ bc.isLt) hr

theorem freeRecord_count_le (k : Nat) : (freeRecord k).count ≤ Config.recDataMax := by
  rw [Record.count, freeRecord, List.length_map, List.length_range]
  exact Nat.le_of_lt_succ (Config.freeRecCount k).isLt

/-- `base_address` of an `ELA` record has a zero low half (R25, R109). -/
theorem elaBase_low (d0 d1 : Byte) : (elaBase d0 d1).extractLsb' 0 16 = 0 := by
  apply BitVec.eq_of_getLsbD_eq
  intro i hi
  simp [elaBase, hi]

end Sys2Proof.Machine
end

section
/-! The invariant `EngineInv` (10_state.md R24, R25, R28 to R31, R33, R36, R170): reset meets it, and each action keeps it. The
rules come first: what may be written at any time, how an operation starts, goes on and ends. -/

namespace Sys2Proof.Machine

/-! ### Reset -/

/-- The reset values meet the invariant with any valid parameters (R38, R350). -/
theorem engineInv_reset {cfg : Params} (h : cfg.Valid) (e : Env) (c : Nat) :
    EngineInv { State.reset with cfg := cfg, env := e, freeCtr := c } where
  params := h
  busyPhase := by simp [State.reset]
  phaseOk := trivial
  handshakeSession := fun hb => Bool.noConfusion hb
  otherSession := fun hb => Bool.noConfusion hb
  fresh := fun _ => ⟨rfl, rfl, rfl⟩
  base := by change (0 : Addr).extractLsb' 0 16 = 0; decide
  setFits := Nat.zero_le _
  getFits := Nat.zero_le _
  readFits := Nat.zero_le _
  txFits := Nat.zero_le _
  record := fun hv => Bool.noConfusion hv
  recordFits := Nat.zero_le _

/-- Settles O49: the parameters of the reset instance are valid, and the rest holds by the reset values. -/
theorem resetMeetsTheInvariant : Obligations.ResetMeetsTheInvariant :=
  engineInv_reset (cfg := Params.default) (by decide) Env.empty 0

/-- Settles O31: the fields of `State.reset`, read off one by one. -/
theorem resetStateHoldsTheResetValues : Obligations.ResetStateHoldsTheResetValues :=
  ⟨rfl, rfl, rfl, rfl, rfl, rfl, rfl, rfl, rfl, rfl, rfl, rfl⟩

namespace EngineInv
variable {s : State} (h : EngineInv s)
include h

/-! ### What the invariant says of `rec_valid` -/

theorem recValid_of_op (ho : s.op ≠ .upload) : s.recValid = false :=
  Bool.eq_false_iff.mpr fun hv =>
    have ⟨_, hop, _⟩ := h.record hv
    ho hop

theorem recValid_of_phase (hp : s.phase.dispatches = false) : s.recValid = false :=
  Bool.eq_false_iff.mpr fun hv =>
    have ⟨_, _, hd⟩ := h.record hv
    Bool.noConfusion (hp.symm.trans hd)

theorem busy_of_phase (hp : s.phase ≠ .idle) : s.busy = true := h.busyPhase.mpr hp

/-! ### What may be written at any time -/

/-- The environment, the counter of free values, `line` and `line_index` are no part of the invariant. -/
theorem writeUnread (e : Env) (c : Nat) (l : List Byte) (i : Nat) :
    EngineInv { s with env := e, freeCtr := c, line := l, lineIndex := i } := { h with }

theorem rx (n t : Nat) : EngineInv (s.rx n t) := by
  obtain ⟨e, c, hrx⟩ := s.rx_writes n t
  exact hrx ▸ h.writeUnread e c s.line s.lineIndex

theorem tx {f : List Byte} (hf : f.length ≤ 258) : EngineInv (s.tx f) := by
  obtain ⟨e, c, htx⟩ := s.tx_writes f
  exact htx ▸ { h with txFits := hf }

theorem setRdBuf {d : List Byte} (hd : d.length ≤ Config.readMax) : EngineInv { s with rdBuf := d } :=
  { h with readFits := hd }

/-- `get_buf` may be written before `HS_COMMIT` reads it. -/
theorem setGetBuf {b : List Byte} (hp : s.phase ≠ .hsCommit) (hb : b.length ≤ s.cfg.getBufCap) :
    EngineInv { s with getBuf := b } where
  __ := h
  phaseOk := by
    have hok := h.phaseOk
    unfold PhaseOk at hok ⊢
    split at hok <;> simp_all [WriteReady]
  getFits := hb

/-! ### How an operation ends (60_exceptions.md R305, R306) -/

/-- An operation may end in any phase, with the dispatch of its record, and never in a new session. -/
theorem ends {v : Bool} {n : Nat} {x : Session} (k : Status) (hv : v = false)
    (hx : x = .uninitialized → s.session = .uninitialized) :
    EngineInv { s with
      recValid := v, chunkOff := n, session := x, status := k, phase := .idle, busy := false } where
  __ := h
  busyPhase := by simp
  phaseOk := trivial
  handshakeSession := fun hb => Bool.noConfusion hb
  otherSession := fun hb => Bool.noConfusion hb
  fresh := fun e => h.fresh (hx e)
  record := fun e => Bool.noConfusion (hv.symm.trans e)

theorem fail (k : Status) (hv : s.recValid = false) : EngineInv (s.fail k) := h.ends k hv uninitialized_of_fail

theorem stageFails (k : Status) : EngineInv (s.stageFails k) := by
  refine h.ends k ?_ uninitialized_of_fail
  split
  · rfl
  · exact h.recValid_of_op ‹_›

theorem done (hv : s.recValid = false) : EngineInv s.done := h.ends .ok hv id

theorem relinquish (hv : s.recValid = false) : EngineInv s.relinquish :=
  h.ends .ok hv fun e => Session.noConfusion e

/-- `HS_COMMIT` (R178): the opcodes behind the version byte fit. -/
theorem commit (hp : s.phase = .hsCommit) : EngineInv s.commit where
  __ := h
  busyPhase := by simp
  phaseOk := trivial
  handshakeSession := fun hb => Bool.noConfusion hb
  otherSession := fun hb => Bool.noConfusion hb
  fresh := fun e => Session.noConfusion e
  setFits := by
    rw [State.cmdCount, State.commit_cmdSet, List.length_tail]
    exact Nat.sub_le_sub_right h.getFits 1
  record := fun e => Bool.noConfusion ((h.recValid_of_phase (by rw [hp]; rfl)).symm.trans e)

/-! ### How an operation goes on -/

/-- The operation in progress goes on in phase `p`, when that phase has what it needs. -/
theorem enters {p : Phase} {v : Bool} {n : Nat} (hi : s.phase ≠ .idle) (hp : p ≠ .idle)
    (hok : PhaseOk { s with recValid := v, chunkOff := n, phase := p })
    (hv : v = true → s.recValid = true ∧ p.dispatches = true) :
    EngineInv { s with recValid := v, chunkOff := n, phase := p } where
  __ := h
  busyPhase := by simp [h.busy_of_phase hi, hp]
  phaseOk := hok
  record := fun e =>
    have ⟨hs, hd⟩ := hv e
    have ⟨hg, hop, _⟩ := h.record hs
    ⟨hg, hop, hd⟩

/-- The operation goes on to a phase that is inside a dispatch exactly when the last one was. -/
theorem goesOn {p q : Phase} (hq : s.phase = q) (hd : p.dispatches = q.dispatches)
    (hok : PhaseOk { s with phase := p }) (hi : q ≠ .idle := by simp) (hp : p ≠ .idle := by simp) :
    EngineInv { s with phase := p } :=
  h.enters (hq ▸ hi) hp hok fun hv =>
    have ⟨_, _, hlast⟩ := h.record hv
    ⟨hv, by rw [hd, ← hq, hlast]⟩

/-- A genuine record is about to be dispatched (R33, R271). -/
theorem holdsRecord {p : Phase} {r : Record} (hop : s.op = .upload) (hi : s.phase ≠ .idle) (hp : p = .upDispatch)
    (hr : Genuine r) : EngineInv { s with recValid := true, record := r, phase := p } where
  __ := h
  busyPhase := by simp [h.busy_of_phase hi, hp]
  phaseOk := by subst hp; exact ⟨hop, rfl⟩
  record := fun _ => ⟨hr, hop, by subst hp; rfl⟩
  recordFits := hr.count

/-! ### The exchange of a frame (40_framing.md R146) -/

theorem sendFrame {i : Instr} (hs : Sends s i) : EngineInv (s.sendFrame (encode s.cfg i)) := by
  have hi : s.phase ≠ .idle := by cases hs <;> simp_all
  have htx := h.tx (hs.length_le h.params)
  rcases s.sendFrame_cases (encode s.cfg i) with ⟨_, e⟩ | ⟨_, e⟩ <;> rw [e]
  · rw [← State.tx_phase s (encode s.cfg i)]
    exact htx.goesOn rfl (Phase.sent_dispatches _) (phaseOk_sent htx.phaseOk) (by simpa using hi) (by simpa using hi)
  · exact htx.stageFails .transportError

/-- The end of a dispatch (R271). -/
theorem endDispatch (hop : s.op = .upload) (hi : s.phase ≠ .idle) (n : Nat) :
    EngineInv ({ s with chunkOff := n } : State).endDispatch :=
  (h.writeUnread s.env s.freeCtr s.line (s.lineIndex + 1)).enters hi (by simp) hop fun e => Bool.noConfusion e

/-- The loop test of a `DATA` record (R273), at any offset. -/
theorem nextChunk (hop : s.op = .upload) (hi : s.phase ≠ .idle) (hv : s.recValid = true)
    (ht : s.record.type = 0x00) (n : Nat) : EngineInv ({ s with chunkOff := n } : State).nextChunk := by
  rcases State.nextChunk_cases { s with chunkOff := n } with ⟨hg, _, hlt, e⟩ | ⟨⟨k, _, e⟩, _⟩ | ⟨_, e⟩ <;> rw [e]
  · exact h.enters hi (by simp) ⟨hg, .inr ⟨hop, hv, ht, hlt⟩⟩ fun e => ⟨e, rfl⟩
  · exact h.ends k rfl uninitialized_of_fail
  · exact h.endDispatch hop hi n

/-- The final ACK of a payload ends a `WRITE` and goes on with an `UPLOAD` (R202, R273). -/
theorem writeDone (hp : s.phase = .wrPay .await) : EngineInv s.writeDone := by
  obtain ⟨_, hw⟩ : WriteReady s := by simpa only [PhaseOk, hp] using h.phaseOk
  unfold State.writeDone
  split
  · rcases hw with ⟨hop, _⟩ | ⟨hop, hv, ht, _⟩
    · simp_all
    · exact h.nextChunk hop (by simp [hp]) hv ht _
  · exact h.done (h.recValid_of_op ‹_›)

/-- An ACK moves the operation on to its next stage, or ends it (R144). -/
theorem acknowledged : EngineInv s.acknowledged := by
  have hok := h.phaseOk
  unfold State.acknowledged
  split <;> rename_i hp <;> simp only [PhaseOk, hp] at hok
  case h_1 => -- the ACK of `SYNC`
    have hget : EngineInv { s with getBuf := [] } := h.setGetBuf (by simp [hp]) (Nat.zero_le _)
    exact hget.goesOn hp rfl (.inl hok)
  case h_8 => exact h.writeDone hp -- of a payload
  case h_10 => exact h.done (h.recValid_of_phase (by rw [hp]; rfl)) -- of an erase list
  case h_12 => exact h.relinquish (h.recValid_of_phase (by rw [hp]; rfl)) -- of a jump address
  case h_13 => exact h -- in a phase that awaits none
  all_goals exact h.goesOn hp rfl hok

/-! ### What else is received -/

theorem drainOnce (hp : s.phase = .hsDrain) : EngineInv s.drainOnce := by
  have hrx := h.rx 1 s.cfg.tDrain
  have hp' : (s.rx 1 s.cfg.tDrain).phase = .hsDrain := by rw [State.rx_phase, hp]
  rcases s.drainOnce_cases with e | e <;> rw [e]
  · exact hrx
  · exact hrx.goesOn hp' rfl (by simpa only [PhaseOk, hp'] using hrx.phaseOk)

theorem getLengthByte (hp : s.phase = .getLen) (n : Byte) : EngineInv (s.getLengthByte n) := by
  rcases s.getLengthByte_cases n with ⟨_, e⟩ | ⟨hn, e⟩ <;> rw [e]
  · exact h.stageFails .bufferTooSmall
  · exact h.goesOn hp rfl ⟨by simpa only [PhaseOk, hp] using h.phaseOk, hn⟩

theorem getRsp {t : State} {k v : Byte} {ops : List Byte} (hp : s.phase = .getList k)
    (hl : ops.length = k.toNat) (he : exec (.getRsp v ops) s = .next t) : EngineInv t := by
  obtain ⟨_, hcap⟩ : (s.op = .handshake ∨ s.op = .get) ∧ k.toNat + 1 ≤ s.cfg.getBufCap := by
    simpa only [PhaseOk, hp] using h.phaseOk
  have hget : EngineInv { s with getBuf := v :: ops } := h.setGetBuf (by simp [hp]) (by simpa [hl] using hcap)
  rcases getRsp_cases he with rfl | rfl | rfl
  · exact h
  · exact h.stageFails .bufferTooSmall
  · unfold State.getDone
    split
    · exact hget.goesOn hp rfl ⟨‹_›, by simp⟩
    · exact hget.done (h.recValid_of_phase (by rw [hp]; rfl))

theorem rdData {t : State} {d : List Byte} (hp : s.phase = .rdData) (hl : d.length = s.args.len)
    (he : exec (.rdData d) s = .next t) : EngineInv t := by
  obtain ⟨_, _, _, hmax⟩ : s.op = .read ∧ s.cfg.opRead ∈ s.cmdSet ∧ 1 ≤ s.args.len ∧ s.args.len ≤ Config.readMax := by
    simpa only [PhaseOk, hp] using h.phaseOk
  rcases rdData_cases he with rfl | rfl
  · exact h
  · exact (h.setRdBuf (hl ▸ hmax)).done (h.recValid_of_phase (by rw [hp]; rfl))

/-! ### The image sequencer (44_image_sequencer.md R271) -/

theorem nextLine (hp : s.phase = .upNext) : EngineInv s.nextLine := by
  have hv := h.recValid_of_phase (by rw [hp]; rfl)
  unfold State.nextLine
  split
  next => exact (h.writeUnread s.env s.freeCtr [] s.lineIndex).fail .missingEof hv
  next => exact (h.writeUnread _ s.freeCtr [] s.lineIndex).fail .lineSourceError hv
  next chars rest _ =>
    have hline : EngineInv { s with line := chars, env.lines := rest } := h.writeUnread _ _ _ _
    exact hline.goesOn hp rfl (by simpa only [PhaseOk, hp] using h.phaseOk)

theorem stripLine (hp : s.phase = .upStrip) : EngineInv s.stripLine :=
  (h.writeUnread s.env s.freeCtr (strip s.line) s.lineIndex).goesOn hp rfl
    (by simpa only [PhaseOk, hp] using h.phaseOk)

/-- A line that parses leaves a genuine record; one that does not ends the upload (R248). -/
theorem parseLine (hp : s.phase = .upParse) : EngineInv s.parseLine := by
  have hop : s.op = .upload := by simpa only [PhaseOk, hp] using h.phaseOk
  unfold State.parseLine
  split
  · exact h.holdsRecord hop (by simp [hp]) rfl (genuine_of_parse ‹_›)
  · have hfree : EngineInv { s with
        recValid := false, record := freeRecord s.freeCtr, freeCtr := s.freeCtr + 1 } :=
      { h with
        phaseOk := by simpa only [PhaseOk, hp] using hop
        record := fun e => Bool.noConfusion e
        recordFits := freeRecord_count_le _ }
    exact hfree.fail _ rfl

/-- In `Ready` `base_address` may take any value with a zero low half. -/
theorem setBaseAddress {b : Addr} (hs : s.session = .ready) (hb : b.extractLsb' 0 16 = 0) :
    EngineInv { s with baseAddress := b } :=
  { h with
    fresh := fun e => Session.noConfusion (hs.symm.trans e)
    base := hb }

/-- In `Ready` the dispatch of a record may set the entry address. -/
theorem setEntry (hs : s.session = .ready) (hp : s.phase = .upDispatch) (a : Addr) :
    EngineInv { s with entry := some a } :=
  { h with
    phaseOk := by simpa only [PhaseOk, hp] using h.phaseOk
    fresh := fun e => Session.noConfusion (hs.symm.trans e) }

/-- The dispatch of a record by its type (R273, R275 to R277). -/
theorem dispatch {t : State} {i : Instr} (hp : s.phase = .upDispatch) (hi : s.record.toInstr = some i)
    (he : exec i s = .next t) : EngineInv t := by
  obtain ⟨hop, _⟩ : s.op = .upload ∧ s.recValid = true := by simpa only [PhaseOk, hp] using h.phaseOk
  have hidle : s.phase ≠ .idle := by simp [hp]
  have hready : s.session = .ready := h.otherSession (h.busy_of_phase hidle) (by simp [hop])
  rcases record_cases hi he with ⟨_, rfl⟩ | ⟨_, rfl⟩ | ⟨d0, d1, _, _, rfl⟩ | ⟨d0, d1, d2, d3, _, _, rfl⟩
  · exact (h.holdsRecord hop hidle hp (genuine_make_data _ h.recordFits)).nextChunk hop hidle rfl rfl 0
  · exact h.ends .ok rfl id
  · exact (h.setBaseAddress hready (elaBase_low d0 d1)).endDispatch hop hidle s.chunkOff
  · exact (h.setEntry hready hp _).endDispatch hop hidle s.chunkOff

/-! ### How an operation starts (41_session.md R181, 42_memory_commands.md R200) -/

/-- While the engine is idle the operation and operand registers may be written. -/
theorem setRequest (hp : s.phase = .idle) (o : Op) (a : Operands) (e : Env) :
    EngineInv { s with op := o, args := a, env := e } where
  __ := h
  phaseOk := by simp only [PhaseOk, hp]
  handshakeSession := fun hb => absurd hp (h.busyPhase.mp hb)
  otherSession := fun hb => absurd hp (h.busyPhase.mp hb)
  record := fun hv => by simp [h.recValid_of_phase (by rw [hp]; rfl)] at hv

/-- An operation other than `HANDSHAKE` starts in `Ready`, when its first phase has what it needs. -/
theorem begins {o : Op} {p : Phase} (hi : s.phase = .idle) (ho : o ≠ .handshake) (ha : s.refusal o = none)
    (hok : PhaseOk { s with op := o, busy := true, phase := p }) (hp : p ≠ .idle := by simp) :
    EngineInv { s with op := o, busy := true, phase := p } where
  __ := h
  busyPhase := by simp [hp]
  phaseOk := hok
  handshakeSession := fun _ e => absurd e ho
  otherSession := fun _ _ => State.ready_of_admitted ho ha
  record := fun hv => by simp [h.recValid_of_phase (by rw [hi]; rfl)] at hv

/-- An admitted operation starts with the operands its check has passed. -/
theorem admitted (hi : s.phase = .idle) {o : Op} (ha : s.refusal o = none) :
    EngineInv (startOf o { s with op := o, busy := true }) := by
  cases o with
  | handshake =>
    exact {
      h with
      busyPhase := by simp [startOf]
      phaseOk := rfl
      handshakeSession := fun _ _ => rfl
      otherSession := fun _ e => absurd rfl e
      fresh := fun _ => ⟨rfl, rfl, rfl⟩
      base := by change (0 : Addr).extractLsb' 0 16 = 0; decide
      setFits := Nat.zero_le _
      record := fun hv => Bool.noConfusion ((h.recValid_of_phase (by rw [hi]; rfl)).symm.trans hv) }
  | get => exact (h.setGetBuf (by simp [hi]) (Nat.zero_le _)).begins hi (by simp) ha (.inr rfl)
  | read =>
    obtain ⟨hgate, _, hrange⟩ := State.gated_eq_none ha
    exact (h.setRdBuf (Nat.zero_le _)).begins hi (by simp) ha ⟨rfl, hgate, rangeCheck_eq_none hrange⟩
  | write =>
    obtain ⟨hgate, _, hrange⟩ := State.gated_eq_none ha
    exact h.begins hi (by simp) ha ⟨hgate, .inl ⟨rfl, rangeCheck_eq_none hrange⟩⟩
  | erase =>
    obtain ⟨hgate, _, hrange⟩ := State.gated_eq_none ha
    exact h.begins hi (by simp) ha ⟨rfl, hgate, rangeCheck_eq_none hrange⟩
  | go => exact h.begins hi (by simp) ha ⟨(State.gated_eq_none ha).1, .inl rfl⟩
  | goEntry =>
    obtain ⟨hgate, _, hentry⟩ := State.gated_eq_none ha
    have hset : s.entry ≠ none := by simpa using hentry
    exact h.begins hi (by simp) ha ⟨hgate, .inr ⟨rfl, hset⟩⟩
  | upload => exact (h.writeUnread s.env s.freeCtr s.line 0).begins hi (by simp) ha rfl

/-- A request is refused, or its operation starts (R200). -/
theorem request (hi : s.phase = .idle) (o : Op) : EngineInv (s.request o (startOf o)) := by
  rcases s.request_cases o (startOf o) with ⟨_, e⟩ | ⟨_, k, _, e⟩ | ⟨_, ha, e⟩ <;> rw [e]
  · exact h
  · exact (h.setRequest hi o s.args s.env).fail k (h.recValid_of_phase (by rw [hi]; rfl))
  · exact h.admitted hi ha

/-! ### The step -/

/-- Every move of the engine keeps the invariant. -/
theorem move {t : State} (m : EngineMove s t) : EngineInv t := by
  cases m with
  | wait => exact h
  | @request r rest _ hp _ _ he =>
    obtain rfl := Host.Outcome.next.inj ((exec_operation (opOfCode r.op) _).symm.trans he)
    exact (h.setRequest hp s.op r.args _).request hp _
  | send _ hs => exact h.sendFrame hs
  | acked => exact (h.rx _ _).acknowledged
  | nacked | silent | broken => exact (h.rx _ _).stageFails _
  | drain hp => exact h.drainOnce hp
  | getLen hp => exact (h.rx _ _).getLengthByte (by rw [State.rx_phase, hp]) _
  | getList hp hl _ he => exact (h.rx _ _).getRsp (by rw [State.rx_phase, hp]) hl he
  | readData hp hl _ he => exact (h.rx _ _).rdData (by rw [State.rx_phase, hp]) (by rw [State.rx_args, hl]) he
  | commit hp => exact h.commit hp
  | nextLine hp => exact h.nextLine hp
  | stripLine hp => exact h.stripLine hp
  | parseLine hp => exact h.parseLine hp
  | dispatch hp _ hi he => exact h.dispatch hp hi he

end EngineInv

/-- Where the reset input is asserted a step is the reset (R351). -/
theorem step_of_asserted {s : State} (h : ¬ NoReset s) : ∃ e, step s = .next ({ s with env := e } : State).resetNow := by
  obtain ⟨rest, hl⟩ : ∃ rest, s.env.resetLine = true :: rest := by
    simpa [NoReset, List.head?_eq_some_iff] using h
  exact ⟨_, step_reset hl⟩

/-- Settles O50: a reset restores the invariant, and every move of the engine keeps it. -/
theorem stepKeepsTheInvariant : Obligations.StepKeepsTheInvariant := by
  intro s t h hs
  by_cases hn : NoReset s
  · exact (h.writeUnread _ s.freeCtr s.line s.lineIndex).move (step_move hs hn)
  · obtain ⟨e, he⟩ := step_of_asserted hn
    obtain rfl := Host.Outcome.next.inj (he.symm.trans hs)
    exact engineInv_reset h.params e s.freeCtr

end Sys2Proof.Machine
end

section
/-! The command port and the address registers (10_state.md R21, R22, R25, R26): what a busy engine leaves alone, what writes
`base_address` and the entry address, what the host reads, and which decoded instruction a step runs. -/

namespace Sys2Proof.Machine

/-! ### What an action leaves alone -/

/-- From `s` to `t` no request is taken from the host and no address register is written. -/
structure KeepsPortAndAddresses (s t : State) : Prop where
  host : t.env.host = s.env.host
  base : t.baseAddress = s.baseAddress
  entry : t.entry = s.entry

namespace KeepsPortAndAddresses

theorem trans {s u t : State} (hu : KeepsPortAndAddresses s u) (ht : KeepsPortAndAddresses u t) :
    KeepsPortAndAddresses s t :=
  ⟨ht.host.trans hu.host, ht.base.trans hu.base, ht.entry.trans hu.entry⟩

theorem rx (s : State) (n t : Nat) : KeepsPortAndAddresses s (s.rx n t) := ⟨by simp, by simp, by simp⟩

theorem tx (s : State) (f : List Byte) : KeepsPortAndAddresses s (s.tx f) := ⟨by simp, by simp, by simp⟩

theorem sendFrame (s : State) (f : List Byte) : KeepsPortAndAddresses s (s.sendFrame f) := by
  rcases s.sendFrame_cases f with ⟨_, e⟩ | ⟨_, e⟩ <;> rw [e] <;> exact (tx s f).trans ⟨rfl, rfl, rfl⟩

theorem nextChunk (s : State) : KeepsPortAndAddresses s s.nextChunk := by
  rcases s.nextChunk_cases with ⟨_, _, _, e⟩ | ⟨⟨k, _, e⟩, _⟩ | ⟨_, e⟩ <;> rw [e] <;> exact ⟨rfl, rfl, rfl⟩

theorem writeDone (s : State) : KeepsPortAndAddresses s s.writeDone := by
  unfold State.writeDone
  split
  · have hk := nextChunk { s with chunkOff := s.chunkOff + s.chunkBytes.length }
    exact ⟨hk.host, hk.base, hk.entry⟩
  · exact ⟨rfl, rfl, rfl⟩

theorem acknowledged (s : State) : KeepsPortAndAddresses s s.acknowledged := by
  unfold State.acknowledged
  split
  case h_8 => exact writeDone s -- the ACK of a payload
  all_goals exact ⟨rfl, rfl, rfl⟩

theorem drainOnce (s : State) : KeepsPortAndAddresses s s.drainOnce := by
  rcases s.drainOnce_cases with e | e <;> rw [e] <;> exact (rx s 1 s.cfg.tDrain).trans ⟨rfl, rfl, rfl⟩

theorem getLengthByte (s : State) (n : Byte) : KeepsPortAndAddresses s (s.getLengthByte n) := by
  rcases s.getLengthByte_cases n with ⟨_, e⟩ | ⟨_, e⟩ <;> rw [e] <;> exact ⟨rfl, rfl, rfl⟩

theorem getDone (s : State) : KeepsPortAndAddresses s s.getDone := by
  unfold State.getDone; split <;> exact ⟨rfl, rfl, rfl⟩

theorem getRsp {s t : State} {v : Byte} {ops : List Byte} (h : exec (.getRsp v ops) s = .next t) :
    KeepsPortAndAddresses s t := by
  rcases getRsp_cases h with rfl | rfl | rfl
  · exact ⟨rfl, rfl, rfl⟩
  · exact ⟨rfl, rfl, rfl⟩
  · have hk := getDone { s with getBuf := v :: ops }
    exact ⟨hk.host, hk.base, hk.entry⟩

theorem rdData {s t : State} {d : List Byte} (h : exec (.rdData d) s = .next t) : KeepsPortAndAddresses s t := by
  rcases rdData_cases h with rfl | rfl <;> exact ⟨rfl, rfl, rfl⟩

theorem nextLine (s : State) : KeepsPortAndAddresses s s.nextLine := by
  unfold State.nextLine; split <;> exact ⟨rfl, rfl, rfl⟩

theorem parseLine (s : State) : KeepsPortAndAddresses s s.parseLine := by
  unfold State.parseLine; split <;> exact ⟨rfl, rfl, rfl⟩

end KeepsPortAndAddresses

/-- `ELA` in the record registers is dispatched, to `t` (R276). -/
def DispatchesEla (s t : State) : Prop :=
  s.phase = .upDispatch ∧ ∃ d0 d1, s.recValid = true ∧ s.record.type = 0x04 ∧ s.record.data = [d0, d1] ∧
    t = ({ s with baseAddress := elaBase d0 d1 } : State).endDispatch

/-- `SLA` in the record registers is dispatched, to `t` (R277). -/
def DispatchesSla (s t : State) : Prop :=
  s.phase = .upDispatch ∧ ∃ d0 d1 d2 d3, s.recValid = true ∧ s.record.type = 0x05 ∧
    s.record.data = [d0, d1, d2, d3] ∧ t = ({ s with entry := some (addrOf d0 d1 d2 d3) } : State).endDispatch

/-- A move of the engine takes no request and writes no address register, or is a request to an engine that is not busy, or
the dispatch of an `ELA` or `SLA` record. -/
theorem EngineMove.port_cases {s t : State} (h : EngineMove s t) :
    KeepsPortAndAddresses s t ∨
    (s.busy = false ∧ ∃ r rest, t = (s.latch r rest).request (opOfCode r.op) (startOf (opOfCode r.op))) ∨
    DispatchesEla s t ∨ DispatchesSla s t := by
  cases h with
  | wait | commit | stripLine => exact .inl ⟨rfl, rfl, rfl⟩
  | @request r rest _ _ hb _ he =>
    exact .inr (.inl ⟨hb, r, rest, Host.Outcome.next.inj (he.symm.trans (exec_operation (opOfCode r.op) _))⟩)
  | send => exact .inl (.sendFrame s _)
  | acked => exact .inl ((KeepsPortAndAddresses.rx s _ _).trans (.acknowledged _))
  | nacked | silent | broken => exact .inl ((KeepsPortAndAddresses.rx s _ _).trans ⟨rfl, rfl, rfl⟩)
  | drain => exact .inl (.drainOnce s)
  | getLen => exact .inl ((KeepsPortAndAddresses.rx s _ _).trans (.getLengthByte _ _))
  | getList _ _ _ he => exact .inl ((KeepsPortAndAddresses.rx s _ _).trans (.getRsp he))
  | readData _ _ _ he => exact .inl ((KeepsPortAndAddresses.rx s _ _).trans (.rdData he))
  | nextLine => exact .inl (.nextLine s)
  | parseLine => exact .inl (.parseLine s)
  | dispatch hp hv hi he =>
    rcases record_cases hi he with ⟨_, rfl⟩ | ⟨_, rfl⟩ | ⟨d0, d1, ht, hd, e⟩ | ⟨d0, d1, d2, d3, ht, hd, e⟩
    · have hk := KeepsPortAndAddresses.nextChunk
        { s with recValid := true, record := Record.make s.record.addr 0x00 s.record.data, chunkOff := 0 }
      exact .inl ⟨hk.host, hk.base, hk.entry⟩
    · exact .inl ⟨rfl, rfl, rfl⟩
    · exact .inr (.inr (.inl ⟨hp, d0, d1, hv, ht, hd, e⟩))
    · exact .inr (.inr (.inr ⟨hp, d0, d1, d2, d3, hv, ht, hd, e⟩))

/-! ### The busy port (R21) -/

/-- Settles O22: a request is accepted by an engine that is not busy only, and no other move takes one from the host. -/
theorem busyPortAcceptsNothing : Obligations.BusyPortAcceptsNothing := by
  refine ⟨fun s o hb => ?_, fun s t hb hn hs => ?_⟩
  · rw [exec_operation, State.request_of_busy hb]
  · rcases (step_move hs hn).port_cases with hk | ⟨hf, _⟩ | ⟨_, _, _, _, _, _, rfl⟩ | ⟨_, _, _, _, _, _, _, _, rfl⟩
    · exact hk.host
    · exact Bool.noConfusion (hf.symm.trans hb)
    · rfl
    · rfl

/-! ### The address registers (R25, R26, R308) -/

/-- A request writes the address registers only when it starts a `HANDSHAKE`, which clears both (R171 row 1). -/
theorem State.request_addresses (s : State) (o : Op) :
    ((s.request o (startOf o)).baseAddress = s.baseAddress ∧ (s.request o (startOf o)).entry = s.entry) ∨
    ((s.request o (startOf o)).op = .handshake ∧ (s.request o (startOf o)).baseAddress = 0 ∧
      (s.request o (startOf o)).entry = none) := by
  rcases s.request_cases o (startOf o) with ⟨_, e⟩ | ⟨_, k, _, e⟩ | ⟨_, _, e⟩ <;> rw [e]
  · exact .inl ⟨rfl, rfl⟩
  · exact .inl ⟨rfl, rfl⟩
  · cases o with
    | handshake => exact .inr ⟨rfl, rfl, rfl⟩
    | _ => exact .inl ⟨rfl, rfl⟩

/-- Settles O55: an accepted `HANDSHAKE` and the dispatch of an `ELA` or `SLA` record write them, and no other move does. -/
theorem addressRegistersWrittenByRecordsOnly : Obligations.AddressRegistersWrittenByRecordsOnly := by
  intro s t _ hn hs
  rcases (step_move hs hn).port_cases with hk | ⟨hb, r, rest, rfl⟩ | ⟨hp, d0, d1, hv, ht, hd, rfl⟩ |
    ⟨hp, d0, d1, d2, d3, hv, ht, hd, rfl⟩
  · exact ⟨fun hne => absurd hk.base hne, fun hne => absurd hk.entry hne⟩
  · rcases State.request_addresses (State.latch _ r rest) (opOfCode r.op) with ⟨hbase, hentry⟩ | ⟨ho, hbase, hentry⟩
    · exact ⟨fun hne => absurd hbase hne, fun hne => absurd hentry hne⟩
    · exact ⟨fun _ => .inl ⟨hb, ho, hbase⟩, fun _ => .inl ⟨hb, ho, hentry⟩⟩
  · exact ⟨fun _ => .inr ⟨hp, d0, d1, hv, ht, hd, rfl⟩, fun hne => absurd (State.endDispatch_entry _) hne⟩
  · exact ⟨fun hne => absurd (State.endDispatch_baseAddress _) hne, fun _ => .inr ⟨hp, d0, d1, d2, d3, hv, ht, hd, rfl⟩⟩

/-! ### What the host reads (R22, R356) -/

theorem State.hostView_eq_none_iff (s : State) : s.hostView = none ↔ s.busy = true := by
  unfold State.hostView; split <;> simp_all

/-- Settles O41: the view by its definition, and the codes of R301 and R23. -/
theorem hostReadsOnlyWhileIdle : Obligations.HostReadsOnlyWhileIdle := by
  refine ⟨fun s => ⟨s.hostView_eq_none_iff, fun v hv => ?_⟩, ?_⟩
  · unfold State.hostView at hv
    split at hv
    · exact absurd hv (by simp)
    · obtain rfl := Option.some.inj hv
      refine ⟨rfl, rfl, rfl, rfl, rfl, rfl, Option.isSome_iff_ne_none, rfl, rfl, rfl, rfl, rfl, rfl, ?_, ?_⟩
      · intro ho hs; simp [State.uploadFailed, ho, hs]
      · rintro (ho | hs)
        · simp [State.uploadFailed, ho]
        · simp [State.uploadFailed, hs]
  · decide

/-! ### The instruction a step runs (R118, R144, R176, R201, R271) -/

theorem engineStep_of_run {s u : State} {i : Instr} (h : s.fetch = .run i u) : engineStep s = exec i u := by
  rw [engineStep, h]

/-- A 3-bit code on the command port decodes to what it asks for (R118). -/
theorem decode_opSelect (cfg : Params) (c : BitVec 3) :
    decode cfg .opSelect [c.setWidth 8] = .ok (decodeOp c) := by
  have hlt : (c.setWidth 8).toNat < 8 := by have := c.isLt; simp; omega
  rw [decode, if_pos hlt, BitVec.setWidth_setWidth_of_le c (by decide), BitVec.setWidth_eq]

/-- A Get response that decodes is its version byte and its opcodes (R102). -/
theorem decode_getRsp_cons {cfg : Params} {n v : Byte} {ops : List Byte} {i : Instr}
    (h : decode cfg .getRsp (n :: v :: ops) = .ok i) : i = .getRsp v ops := by
  simp only [decode] at h
  split at h
  · exact (Decoded.ok.inj h).symm
  · cases h

theorem decode_readData {cfg : Params} {d : List Byte} {i : Instr} (h : decode cfg .readData d = .ok i) :
    i = .rdData d := by
  simp only [decode] at h
  split at h
  · exact (Decoded.ok.inj h).symm
  · cases h

/-- A line that decodes parses to a record of a known type (R240, R271). -/
theorem decode_hexLine {cfg : Params} {line : List Byte} {i : Instr} (h : decode cfg .hexLine line = .ok i) :
    ∃ r, parse line = .ok r ∧ r.toInstr = some i := by
  simp only [decode] at h
  split at h
  · rename_i r hr
    split at h
    · rename_i j hj
      obtain rfl := Decoded.ok.inj h
      exact ⟨r, hr, hj⟩
    · cases h
  · cases h

theorem engineStep_request {s : State} {r : Request} {rest : List Request} (hp : s.phase = .idle)
    (hb : s.busy = false) (hh : s.env.host = r :: rest) :
    engineStep s = exec (decodeOp r.op) (s.latch r rest) :=
  engineStep_of_run (by simp [State.fetch, State.fetchRequest, hp, hb, hh])

theorem engineStep_response {s : State} {x : Byte} (hp : s.phase.awaitsAck = true) (hx : s.nextRxReply 1 = .ok [x]) :
    engineStep s = exec (decodeResponse x) (s.rx 1 s.ackTimeout) :=
  engineStep_of_run ((fetch_response hp).trans (State.receive_of_ok hx _ _))

theorem engineStep_getList {s : State} {n v : Byte} {ops : List Byte} (hp : s.phase = .getList n)
    (hx : s.nextRxReply (n.toNat + 1) = .ok (v :: ops)) :
    engineStep s = exec (.getRsp v ops) (s.rx (n.toNat + 1) s.cfg.tData) :=
  engineStep_of_run (by simp [State.fetch, State.fetchGetList, hp, State.receive_of_ok hx])

theorem engineStep_readData {s : State} {d : List Byte} (hp : s.phase = .rdData)
    (hx : s.nextRxReply s.args.len = .ok d) : engineStep s = exec (.rdData d) (s.rx s.args.len s.cfg.tData) :=
  engineStep_of_run (by simp [State.fetch, State.fetchReadData, hp, State.receive_of_ok hx])

theorem engineStep_parse {s : State} {r : Record} (hp : s.phase = .upParse) (hr : parse s.line = .ok r) :
    engineStep s = .next { s with recValid := true, record := r, phase := .upDispatch } := by
  simp [engineStep, State.fetch, hp, State.parseLine, hr]

theorem engineStep_dispatch {s : State} {i : Instr} (hp : s.phase = .upDispatch) (hv : s.recValid = true)
    (hi : s.record.toInstr = some i) : engineStep s = exec i s :=
  engineStep_of_run (by simp [State.fetch, State.fetchRecord, hp, hv, hi])

/-- Settles O32: in each space the step runs what the decoder reads. -/
theorem stepRunsTheDecodedInstruction : Obligations.StepRunsTheDecodedInstruction := by
  intro s i
  refine ⟨fun r rest hp hb hh hd => ?_, fun b hp hb hd => ?_, fun n b hp hb hd => ?_, fun b hp hb hd => ?_,
    fun hp hd => ?_⟩
  · obtain rfl := Decoded.ok.inj ((decode_opSelect s.cfg r.op).symm.trans hd)
    exact engineStep_request hp hb hh
  · obtain ⟨x, rfl⟩ := State.nextRxReply_one hb
    obtain rfl := Decoded.ok.inj hd
    exact engineStep_response hp hb
  · obtain ⟨v, ops, rfl⟩ := List.exists_cons_of_length_eq_add_one (State.nextRxReply_length hb)
    obtain rfl := decode_getRsp_cons hd
    exact engineStep_getList hp hb
  · obtain rfl := decode_readData hd
    exact engineStep_readData hp hb
  · obtain ⟨r, hr, hi⟩ := decode_hexLine hd
    exact ⟨_, engineStep_parse hp hr, rfl, engineStep_dispatch rfl rfl hi, rfl⟩

end Sys2Proof.Machine
end

section
/-! The values of the addresses the block forms (20_memory.md R75; 30_encoding.md R109, R113): bytes at their places in a
32-bit word, and a record address modulo 2^32. -/

namespace Sys2Proof.Machine

/-! ### Bytes at their places in a word -/

/-- A byte moved up by at most 24 places keeps all its bits. -/
theorem shifted_toNat (b : Byte) {k : Nat} (hk : k ≤ 24) :
    (b.setWidth 32 <<< k : Addr).toNat = b.toNat * 2 ^ k := by
  have hfits : b.toNat * 2 ^ k < 2 ^ 32 :=
    calc b.toNat * 2 ^ k < 2 ^ 8 * 2 ^ k := Nat.mul_lt_mul_of_pos_right b.isLt (Nat.two_pow_pos k)
      _ = 2 ^ (8 + k) := (Nat.pow_add 2 8 k).symm
      _ ≤ 2 ^ 32 := Nat.pow_le_pow_right (by decide) (by omega)
  rw [BitVec.toNat_shiftLeft, BitVec.toNat_setWidth_of_le (by decide), Nat.shiftLeft_eq, Nat.mod_eq_of_lt hfits]

/-- Joining a word whose low `k` bits are zero with one below `2^k` adds them. -/
theorem or_toNat_of_low {x y : Addr} (k : Nat) (hx : 2 ^ k ∣ x.toNat) (hy : y.toNat < 2 ^ k) :
    (x ||| y).toNat = x.toNat + y.toNat := by
  obtain ⟨q, hq⟩ := hx
  rw [BitVec.toNat_or, hq, Nat.two_pow_add_eq_or_of_lt hy]

/-- R109, R113: the two data bytes of an `ELA` record, the first one the more significant, above 16 zero bits. -/
theorem elaBase_toNat (d0 d1 : Byte) : (elaBase d0 d1).toNat = (d0.toNat * 256 + d1.toNat) * 65536 := by
  have h0 : (d0.setWidth 32 <<< 8 : Addr).toNat = d0.toNat * 256 := shifted_toNat d0 (by decide)
  have h1 : (d1.setWidth 32).toNat = d1.toNat := BitVec.toNat_setWidth_of_le (by decide)
  have hhalf : (d0.setWidth 32 <<< 8 ||| d1.setWidth 32 : Addr).toNat = d0.toNat * 256 + d1.toNat := by
    rw [or_toNat_of_low 8 (by omega) (by omega), h0, h1]
  rw [elaBase, BitVec.toNat_shiftLeft, hhalf, Nat.shiftLeft_eq, Nat.mod_eq_of_lt (by omega)]

/-- R97, R109: four bytes, the first one the most significant. -/
theorem addrOf_toNat (d0 d1 d2 d3 : Byte) :
    (addrOf d0 d1 d2 d3).toNat = d0.toNat * 2 ^ 24 + d1.toNat * 2 ^ 16 + d2.toNat * 2 ^ 8 + d3.toNat := by
  have h0 := shifted_toNat d0 (k := 24) (by decide)
  have h1 := shifted_toNat d1 (k := 16) (by decide)
  have h2 := shifted_toNat d2 (k := 8) (by decide)
  have h3 : (d3.setWidth 32).toNat = d3.toNat := BitVec.toNat_setWidth_of_le (by decide)
  have h01 := or_toNat_of_low (x := d0.setWidth 32 <<< 24) (y := d1.setWidth 32 <<< 16) 24 (by omega) (by omega)
  have h012 := or_toNat_of_low (x := d0.setWidth 32 <<< 24 ||| d1.setWidth 32 <<< 16) (y := d2.setWidth 32 <<< 8) 16
    (by omega) (by omega)
  rw [addrOf, or_toNat_of_low 8 (by omega) (by omega)]
  omega

/-! ### The address of a record's byte (R75) -/

theorem recordAddress_toNat (base : Addr) (a : Half16) (off : Nat) :
    (recordAddress base a off).toNat = (base.toNat + a.toNat + off) % 2 ^ 32 := by
  simp [recordAddress]

/-- Above a zero low half a 16-bit address field fits without a carry. -/
theorem first_recordAddress_toNat {base : Addr} (a : Half16) (h : base.extractLsb' 0 16 = 0) :
    (recordAddress base a 0).toNat = base.toNat + a.toNat := by
  have hlow : base.toNat % 2 ^ 16 = 0 := by simpa using congrArg BitVec.toNat h
  rw [recordAddress_toNat, Nat.mod_eq_of_lt (by omega), Nat.add_zero]

/-- Settles O11: the three address formations as sums. -/
theorem addressesAreFormedModulo2To32 : Obligations.AddressesAreFormedModulo2To32 :=
  ⟨fun base a off => ⟨recordAddress_toNat base a off, first_recordAddress_toNat a⟩,
    fun d0 d1 => ⟨elaBase_toNat d0 d1, elaBase_low d0 d1⟩, addrOf_toNat⟩

end Sys2Proof.Machine
end

section
/-! The acknowledge discipline of an operation (20_memory.md R76): it starts with no frame sent, each move of the engine keeps
it, and a move that transmits starts in a phase where the discipline asks for an ACK. -/

namespace Sys2Proof.Machine

/-! ### What the discipline says of the trace -/

theorem sentSince_of_trace_eq {n : Nat} {s t : State} (h : t.env.trace = s.env.trace) (ht : SentSince n t) :
    SentSince n s := by
  unfold SentSince at *; rwa [← h]

theorem lastCallAcked_of_trace_eq {s t : State} (h : t.env.trace = s.env.trace) (hs : LastCallAcked s) :
    LastCallAcked t := by
  unfold LastCallAcked at *; rwa [h]

/-- Behind the whole trace no call has been made. -/
theorem not_sentSince_length (s : State) : ¬ SentSince s.env.trace.length s := by
  simp [SentSince]

/-- A receive sends nothing. -/
theorem sentSince_of_rx {n k tm : Nat} {s : State} (hn : n ≤ s.env.trace.length) (h : SentSince n (s.rx k tm)) :
    SentSince n s := by
  obtain ⟨f, t, r, hmem⟩ := h
  rw [State.rx_trace, List.drop_append_of_le_length hn] at hmem
  exact ⟨f, t, r, by simpa using hmem⟩

theorem lastCallAcked_rx {s : State} (tm : Nat) (h : s.nextRxReply 1 = .ok [Config.ack]) :
    LastCallAcked (s.rx 1 tm) :=
  ⟨tm, by rw [State.rx_trace, h, List.getLast?_concat]⟩

/-! ### Phases -/

/-- A frame after the first is sent from a phase whose next call is a transmit. -/
theorem LaterFrame.beforeTransmit {s : State} (h : LaterFrame s) : s.phase.beforeTransmit = true := by
  unfold LaterFrame at h
  split at h <;> simp_all [Phase.beforeTransmit]

theorem Sends.beforeTransmit {s : State} {i : Instr} (h : Sends s i) : s.phase.beforeTransmit = true := by
  cases h <;> simp_all [Phase.beforeTransmit]

/-- The phases that neither drain nor transmit next: a frame's acknowledge or data is awaited, or the operation is over. -/
def Phase.quiet (p : Phase) : Bool := p ≠ .hsDrain ∧ p.beforeTransmit = false

theorem Sends.sent_quiet {s : State} {i : Instr} (h : Sends s i) : s.phase.sent.quiet = true := by
  cases h <;> simp_all [Phase.sent, Phase.quiet, Phase.beforeTransmit]

/-! ### States in the discipline -/

namespace AckDiscipline

theorem of_quiet {n : Nat} {t : State} (h : t.phase.quiet = true) : AckDiscipline n t := by
  obtain ⟨hd, hb⟩ : t.phase ≠ .hsDrain ∧ t.phase.beforeTransmit = false := by simpa [Phase.quiet] using h
  have hne : t.phase.beforeTransmit ≠ true := by simp [hb]
  exact ⟨fun hl => absurd hl.beforeTransmit hne, fun e => absurd e hd, fun e => absurd e hne⟩

theorem of_nothingSent {n : Nat} {t : State} (hl : ¬ LaterFrame t) (hs : ¬ SentSince n t) : AckDiscipline n t :=
  ⟨fun e => absurd e hl, fun _ => hs, fun _ e => absurd e hs⟩

theorem of_acked {n : Nat} {t : State} (hd : t.phase ≠ .hsDrain) (ha : LastCallAcked t) : AckDiscipline n t :=
  ⟨fun _ => ha, fun e => absurd e hd, fun _ _ => ha⟩

/-- An action between two frames makes no call, and what it leads to is a first frame or no frame yet. -/
theorem of_noCall {n : Nat} {s t : State} (h : AckDiscipline n s) (hs : s.phase.beforeTransmit = true)
    (htr : t.env.trace = s.env.trace) (hl : ¬ LaterFrame t) (hd : t.phase ≠ .hsDrain) : AckDiscipline n t :=
  ⟨fun e => absurd e hl, fun e => absurd e hd, fun _ e =>
    lastCallAcked_of_trace_eq htr (h.next hs (sentSince_of_trace_eq htr e))⟩

end AckDiscipline

/-! ### Where each action leads -/

theorem sendFrame_quiet {s : State} {i : Instr} (h : Sends s i) (f : List Byte) :
    (s.sendFrame f).phase.quiet = true := by
  rcases s.sendFrame_cases f with ⟨_, e⟩ | ⟨_, e⟩ <;> rw [e]
  · exact h.sent_quiet
  · rfl

theorem getLengthByte_quiet {s : State} (n : Byte) : (s.getLengthByte n).phase.quiet = true := by
  rcases s.getLengthByte_cases n with ⟨_, e⟩ | ⟨_, e⟩ <;> rw [e] <;> rfl

theorem getDone_quiet (s : State) : s.getDone.phase.quiet = true := by
  unfold State.getDone; split <;> rfl

theorem getRsp_quiet {s t : State} {k v : Byte} {ops : List Byte} (hp : s.phase = .getList k)
    (h : exec (.getRsp v ops) s = .next t) : t.phase.quiet = true := by
  rcases getRsp_cases h with rfl | rfl | rfl
  · rw [hp]; rfl
  · rfl
  · exact getDone_quiet _

theorem rdData_quiet {s t : State} {d : List Byte} (hp : s.phase = .rdData) (h : exec (.rdData d) s = .next t) :
    t.phase.quiet = true := by
  rcases rdData_cases h with rfl | rfl
  · rw [hp]; rfl
  · rfl

theorem nextChunk_not_drain (s : State) : s.nextChunk.phase ≠ .hsDrain := by
  rcases s.nextChunk_cases with ⟨_, _, _, e⟩ | ⟨⟨k, _, e⟩, _⟩ | ⟨_, e⟩ <;> rw [e] <;> exact Phase.noConfusion

theorem writeDone_not_drain (s : State) : s.writeDone.phase ≠ .hsDrain := by
  unfold State.writeDone
  split
  · exact nextChunk_not_drain _
  · exact Phase.noConfusion

/-- No ACK leads into a drain. -/
theorem acknowledged_not_drain {s : State} (h : s.phase ≠ .hsDrain) : s.acknowledged.phase ≠ .hsDrain := by
  unfold State.acknowledged
  split
  case h_8 => exact writeDone_not_drain s -- the ACK of a payload
  case h_13 => exact h -- in a phase that awaits none
  all_goals exact Phase.noConfusion

/-- The first chunk of a `DATA` record is no later chunk of it (R273). -/
theorem nextChunk_not_laterFrame {s : State} (h : s.chunkOff = 0) : ¬ LaterFrame s.nextChunk := by
  rcases s.nextChunk_cases with ⟨_, _, _, e⟩ | ⟨⟨k, _, e⟩, _⟩ | ⟨_, e⟩ <;> rw [e]
  · rintro ⟨_, hlt⟩; exact absurd h hlt.ne'
  · exact id
  · exact id

/-- The dispatch of a record leads to the first chunk of its data, to the next line, or to the end (R271). -/
theorem record_not_laterFrame_not_drain {s t : State} {r : Record} {i : Instr} (hr : r.toInstr = some i)
    (h : exec i s = .next t) : ¬ LaterFrame t ∧ t.phase ≠ .hsDrain := by
  rcases record_cases hr h with ⟨_, rfl⟩ | ⟨_, rfl⟩ | ⟨_, _, _, _, rfl⟩ | ⟨_, _, _, _, _, _, rfl⟩
  · exact ⟨nextChunk_not_laterFrame rfl, nextChunk_not_drain _⟩
  all_goals exact ⟨id, Phase.noConfusion⟩

theorem nextLine_not_laterFrame_not_drain (s : State) : ¬ LaterFrame s.nextLine ∧ s.nextLine.phase ≠ .hsDrain := by
  unfold State.nextLine; split <;> exact ⟨id, Phase.noConfusion⟩

theorem parseLine_not_laterFrame_not_drain (s : State) : ¬ LaterFrame s.parseLine ∧ s.parseLine.phase ≠ .hsDrain := by
  unfold State.parseLine; split <;> exact ⟨id, Phase.noConfusion⟩

/-- The first frame of an operation is no later frame. -/
theorem startOf_not_laterFrame (o : Op) (s : State) : ¬ LaterFrame (startOf o { s with op := o, busy := true }) := by
  cases o with
  | get => exact fun e => Op.noConfusion e
  | write => exact fun ⟨e, _⟩ => Op.noConfusion e
  | handshake | read | erase | go | goEntry | upload => exact id

/-! ### The moves of the engine -/

/-- An idle engine waits, or takes a request and makes no call. -/
theorem EngineMove.idle_cases {s t : State} (m : EngineMove s t) (hp : s.phase = .idle) :
    t = s ∨ ∃ r rest, t = (s.latch r rest).request (opOfCode r.op) (startOf (opOfCode r.op)) := by
  cases m with
  | wait => exact .inl rfl
  | @request r rest _ _ _ _ he =>
    exact .inr ⟨r, rest, Host.Outcome.next.inj (he.symm.trans (exec_operation (opOfCode r.op) _))⟩
  | send _ hs => cases hs <;> simp_all
  | silent hr | broken hr => cases hr <;> simp_all [Phase.awaitsAck]
  | acked h | nacked h => simp [hp, Phase.awaitsAck] at h
  | drain h | getLen h | getList h | readData h | commit h | nextLine h | stripLine h | parseLine h | dispatch h =>
    simp [hp] at h

/-- The channel call of a move: the frame of a sending phase, a receive, or none. -/
theorem EngineMove.call_cases {s t : State} (m : EngineMove s t) :
    (∃ i, Sends s i) ∨ (∃ n tm r, t.env.trace = s.env.trace ++ [.rx n tm r]) ∨ t.env.trace = s.env.trace := by
  have received {u : State} {n tm : Nat} (h : MakesNoCall (s.rx n tm) u) :
      ∃ n tm r, u.env.trace = s.env.trace ++ [.rx n tm r] := ⟨n, tm, _, by rw [h.trace, State.rx_trace]⟩
  cases m with
  | send _ hs => exact .inl ⟨_, hs⟩
  | wait | commit | stripLine => exact .inr (.inr rfl)
  | request _ _ _ he => exact .inr (.inr (makesNoCall_operation _ he).trace)
  | acked => exact .inr (.inl (received (makesNoCall_acknowledged _)))
  | nacked | silent | broken => exact .inr (.inl (received (makesNoCall_stageFails _ _)))
  | drain =>
    rcases s.drainOnce_cases with e | e <;> rw [e] <;> exact .inr (.inl (received ⟨rfl, rfl⟩))
  | getLen => exact .inr (.inl (received (makesNoCall_getLengthByte _ _)))
  | getList _ _ _ he => exact .inr (.inl (received (makesNoCall_getRsp he)))
  | readData _ _ _ he => exact .inr (.inl (received (makesNoCall_rdData he)))
  | nextLine => exact .inr (.inr (makesNoCall_nextLine s).trace)
  | parseLine => exact .inr (.inr (makesNoCall_parseLine s).trace)
  | dispatch _ _ hi he => exact .inr (.inr (makesNoCall_record hi he).trace)

/-- A move that transmits starts in a phase whose next call is a transmit. -/
theorem EngineMove.beforeTransmit_of_tx {s t : State} (m : EngineMove s t) {f : List Byte} {tm : Nat} {p : TxReply}
    (h : t.env.trace = s.env.trace ++ [.tx f tm p]) : s.phase.beforeTransmit = true := by
  rcases m.call_cases with ⟨i, hs⟩ | ⟨_, _, _, e⟩ | e
  · exact hs.beforeTransmit
  · simp [h] at e
  · simp [h] at e

/-- Under the discipline every transmit but the first of the operation follows an ACK. -/
theorem AckDiscipline.lastCallAcked_of_tx {n : Nat} {s t : State} (h : AckDiscipline n s) (m : EngineMove s t)
    {f : List Byte} {tm : Nat} {p : TxReply} (htx : t.env.trace = s.env.trace ++ [.tx f tm p])
    (hlater : LaterFrame s ∨ SentSince n s) : LastCallAcked s :=
  hlater.elim h.later (h.next (m.beforeTransmit_of_tx htx))

/-- An operation starts in the discipline: no frame is sent, and the first one is still to come. -/
theorem EngineInv.starts_in_discipline {s t : State} (h : EngineInv s) (m : EngineMove s t) (hs : s.busy = false)
    (ht : t.busy = true) : AckDiscipline s.env.trace.length t := by
  have hp : s.phase = .idle := by
    by_contra hne
    exact Bool.noConfusion (hs.symm.trans (h.busy_of_phase hne))
  rcases m.idle_cases hp with rfl | ⟨r, rest, rfl⟩
  · exact Bool.noConfusion (hs.symm.trans ht)
  · rcases (s.latch r rest).request_cases (opOfCode r.op) (startOf (opOfCode r.op)) with
      ⟨hb, _⟩ | ⟨_, k, _, e⟩ | ⟨_, _, e⟩
    · exact Bool.noConfusion (hs.symm.trans hb)
    · rw [e] at ht; exact Bool.noConfusion ht
    · have htr : ((s.latch r rest).request (opOfCode r.op) (startOf (opOfCode r.op))).env.trace = s.env.trace :=
        (makesNoCall_operation (s := s.latch r rest) (opOfCode r.op) (exec_operation _ _)).trace
      refine .of_nothingSent (e ▸ startOf_not_laterFrame _ _) fun hsent => ?_
      exact not_sentSince_length s (sentSince_of_trace_eq htr hsent)

/-- The drain discards what it receives, and then the first frame comes (R173). -/
theorem AckDiscipline.drainOnce {n : Nat} {s : State} (h : AckDiscipline n s) (hn : n ≤ s.env.trace.length)
    (hp : s.phase = .hsDrain) : AckDiscipline n s.drainOnce := by
  have hsent : ¬ SentSince n (s.rx 1 s.cfg.tDrain) := fun e => h.drain hp (sentSince_of_rx hn e)
  rcases s.drainOnce_cases with e | e <;> rw [e]
  · exact .of_nothingSent (by simp [LaterFrame, hp]) hsent
  · exact .of_nothingSent id hsent

/-- After an ACK the last call is its receive, whatever comes next (R144). -/
theorem acknowledged_in_discipline {n : Nat} {s : State} (hp : s.phase.awaitsAck = true)
    (hx : s.nextRxReply 1 = .ok [Config.ack]) : AckDiscipline n (s.rx 1 s.ackTimeout).acknowledged := by
  have hd : (s.rx 1 s.ackTimeout).phase ≠ .hsDrain := by
    rw [State.rx_phase]
    intro e
    rw [e] at hp
    exact Bool.noConfusion hp
  exact .of_acked (acknowledged_not_drain hd)
    (lastCallAcked_of_trace_eq (makesNoCall_acknowledged _).trace (lastCallAcked_rx _ hx))

/-- Every move inside an operation keeps the discipline. -/
theorem AckDiscipline.move {n : Nat} {s t : State} (h : AckDiscipline n s) (hn : n ≤ s.env.trace.length)
    (hb : s.busy = true) (m : EngineMove s t) : AckDiscipline n t := by
  cases m with
  | wait => exact h
  | request _ hf => exact Bool.noConfusion (hf.symm.trans hb)
  | send _ hs => exact .of_quiet (sendFrame_quiet hs _)
  | acked hp hx => exact acknowledged_in_discipline hp hx
  | nacked | silent | broken | commit => exact .of_quiet rfl
  | drain hp => exact h.drainOnce hn hp
  | getLen => exact .of_quiet (getLengthByte_quiet _)
  | getList hp _ _ he => exact .of_quiet (getRsp_quiet (by rw [State.rx_phase, hp]) he)
  | readData hp _ _ he => exact .of_quiet (rdData_quiet (by rw [State.rx_phase, hp]) he)
  | nextLine hp =>
    obtain ⟨hl, hd⟩ := nextLine_not_laterFrame_not_drain s
    exact h.of_noCall (by rw [hp]; rfl) (makesNoCall_nextLine s).trace hl hd
  | stripLine hp => exact h.of_noCall (by rw [hp]; rfl) rfl id Phase.noConfusion
  | parseLine hp =>
    obtain ⟨hl, hd⟩ := parseLine_not_laterFrame_not_drain s
    exact h.of_noCall (by rw [hp]; rfl) (makesNoCall_parseLine s).trace hl hd
  | dispatch hp _ hr he =>
    obtain ⟨hl, hd⟩ := record_not_laterFrame_not_drain hr he
    exact h.of_noCall (by rw [hp]; rfl) (makesNoCall_record hr he).trace hl hd

/-- Settles O54: the move behind the read level of the reset input starts in the discipline, keeps it, and transmits under
it. -/
theorem laterFramesFollowAnAcknowledge : Obligations.LaterFramesFollowAnAcknowledge := by
  intro s t hi hnr hst
  have m := step_move hst hnr
  have hi' := hi.writeUnread { s.env with resetLine := s.env.resetLine.tail } s.freeCtr s.line s.lineIndex
  refine ⟨hi'.starts_in_discipline m, fun n hn hb h => ?_⟩
  -- the discipline does not read the reset input
  have h' : AckDiscipline n { s with env := { s.env with resetLine := s.env.resetLine.tail } } :=
    ⟨h.later, h.drain, h.next⟩
  exact ⟨h'.move hn hb m, fun _ _ _ htx => h'.lastCallAcked_of_tx m htx⟩

end Sys2Proof.Machine
end

section
/-! The byte computations of 30_encoding.md R97 to R112: the XOR checksum, the record checksum, and hexadecimal text in
both directions. -/

namespace Sys2Proof

/-! ### The XOR checksum (R110) -/

/-- A sequence XORs to 0x00 exactly when its last byte is the checksum of the bytes before. -/
theorem xor8_concat_eq_zero_iff {s : List Byte} {c : Byte} : xor8 (s ++ [c]) = 0x00 ↔ xor8 s = c := by
  rw [xor8_append, xor8_single]
  exact BitVec.xor_eq_zero_iff

@[simp] theorem xor8_withXor (s : List Byte) : xor8 (withXor s) = 0x00 := xor8_concat_eq_zero_iff.mpr rfl

/-- A checksummed sequence is its bytes but the last, closed by their checksum. -/
theorem withXor_dropLast {s : List Byte} (hs : s ≠ []) (hx : xor8 s = 0x00) : withXor s.dropLast = s := by
  have hsplit := List.dropLast_concat_getLast hs
  have hlast : xor8 s.dropLast = s.getLast hs := xor8_concat_eq_zero_iff.mp (by rw [hsplit, hx])
  rw [withXor, hlast, hsplit]

theorem xor8_perm {s t : List Byte} (h : s.Perm t) : xor8 s = xor8 t := h.foldl_eq 0x00

/-- The frames of R97, R100 and R103 are closed by their checksum. -/
theorem encode_eq_withXor (cfg : Params) {i : Instr} (h : i.space ∈ [.address, .payload, .erase]) :
    ∃ s, encode cfg i = withXor s := by
  cases i with
  | addr | pay | erasePay => exact ⟨_, rfl⟩
  | _ => simp [Instr.space] at h

/-- Settles O8: each law is a lemma about `xor8`. -/
theorem xorChecksumLaws : Obligations.XorChecksumLaws :=
  ⟨xor8_withXor, fun _ _ => xor8_perm, xor8_single, rfl, xor8_cons, fun cfg _ => encode_eq_withXor cfg⟩

/-! ### The record checksum (R112) -/

theorem cksHex_toNat (s : List Byte) : (cksHex s).toNat = (256 - (s.map BitVec.toNat).sum % 256) % 256 := by
  rw [cksHex, BitVec.toNat_ofNat]

/-- The checksum is the byte that makes the sum 0 modulo 256. -/
theorem eq_cksHex_iff (s : List Byte) (c : Byte) :
    c = cksHex s ↔ ((s ++ [c]).map BitVec.toNat).sum % 256 = 0 := by
  have hc := c.isLt
  rw [← BitVec.toNat_inj, cksHex_toNat, List.map_append, List.sum_append, List.map_singleton, List.sum_singleton]
  omega

/-- The checksum is checked first (R245), so no other check hides it. -/
theorem parseChecked_eq_badChecksum_iff (a : Half16) (ty : Byte) (d : List Byte) (ck : Byte) :
    parseChecked a ty d ck = .err .badChecksum ↔ ck ≠ cksHex (recordBytes a ty d) := by
  unfold parseChecked
  split_ifs <;> simp_all

/-- Settles O9: the check of the parser compares with `cks_hex`, which makes the sum 0. -/
theorem hexChecksumMakesTheSumZero : Obligations.HexChecksumMakesTheSumZero := by
  refine ⟨cksHex_toNat, rfl, eq_cksHex_iff, fun a ty d ck => ?_⟩
  rw [ne_eq, parseChecked_eq_badChecksum_iff, not_not]
  exact eq_cksHex_iff (recordBytes a ty d) ck

/-! ### Hexadecimal digits (R106) -/

theorem hexDigit_decimal {c : Byte} (h1 : 0x30 ≤ c.toNat) (h2 : c.toNat ≤ 0x39) :
    hexDigit c = some (BitVec.ofNat 8 (c.toNat - 0x30)) := by
  rw [hexDigit, if_pos ⟨h1, h2⟩]
  congr 1
  bv_omega

theorem hexDigit_upper {c : Byte} (h1 : 0x41 ≤ c.toNat) (h2 : c.toNat ≤ 0x46) :
    hexDigit c = some (BitVec.ofNat 8 (c.toNat - 0x41 + 10)) := by
  rw [hexDigit, if_neg (by bv_omega), if_pos ⟨h1, h2⟩]
  congr 1
  bv_omega

theorem hexDigit_lower {c : Byte} (h1 : 0x61 ≤ c.toNat) (h2 : c.toNat ≤ 0x66) :
    hexDigit c = some (BitVec.ofNat 8 (c.toNat - 0x61 + 10)) := by
  rw [hexDigit, if_neg (by bv_omega), if_neg (by bv_omega), if_pos ⟨h1, h2⟩]
  congr 1
  bv_omega

/-- Only the three ranges hold digits. -/
theorem hexDigit_ranges {c : Byte} (h : hexDigit c ≠ none) :
    (0x30 ≤ c.toNat ∧ c.toNat ≤ 0x39) ∨ (0x41 ≤ c.toNat ∧ c.toNat ≤ 0x46) ∨
      (0x61 ≤ c.toNat ∧ c.toNat ≤ 0x66) := by
  unfold hexDigit at h
  split_ifs at h with h1 h2 h3
  · exact .inl h1
  · exact .inr (.inl h2)
  · exact .inr (.inr h3)
  · exact absurd rfl h

theorem hexDigit_lt {c v : Byte} (h : hexDigit c = some v) : v.toNat < 16 := by
  rcases hexDigit_ranges (c := c) (by simp [h]) with ⟨h1, h2⟩ | ⟨h1, h2⟩ | ⟨h1, h2⟩
  · rw [hexDigit_decimal h1 h2] at h; obtain rfl := Option.some.inj h; bv_omega
  · rw [hexDigit_upper h1 h2] at h; obtain rfl := Option.some.inj h; bv_omega
  · rw [hexDigit_lower h1 h2] at h; obtain rfl := Option.some.inj h; bv_omega

theorem hexByte_of_digits {chars : List Byte} {k : Nat} {c1 c2 h l : Byte} (e1 : chars[k]? = some c1)
    (e2 : chars[k + 1]? = some c2) (eh : hexDigit c1 = some h) (el : hexDigit c2 = some l) :
    hexByte chars k = some (16 * h + l) := by
  simp [hexByte, e1, e2, eh, el]

/-- Settles O10: the three ranges of digits, and two digits below 16 make a byte without a carry. -/
theorem hexDigitsOfBothCases : Obligations.HexDigitsOfBothCases := by
  refine ⟨fun c => ⟨hexDigit_decimal, hexDigit_upper, hexDigit_lower, hexDigit_ranges⟩, ?_⟩
  intro chars k c1 c2 h l e1 e2 eh el
  have hh := hexDigit_lt eh
  have hl := hexDigit_lt el
  exact ⟨16 * h + l, hexByte_of_digits e1 e2 eh el, by bv_omega⟩

/-! ### The text of a record (43_hex_parser.md R240 to R248, R254) -/

/-- The byte at an even position of hexadecimal text, the high nibble first. -/
theorem hexByte_hexPairs (bs : List Byte) (i : Nat) : hexByte (bs.flatMap hexPair) (2 * i) = bs[i]? := by
  induction bs generalizing i with
  | nil => rfl
  | cons b bs ih =>
    cases i with
    | zero =>
      exact (hexByte_of_digits rfl rfl (hexDigit_high b) (hexDigit_low b)).trans (congrArg some (nibbles_make_byte b))
    | succ i => exact ih i

/-- The same behind the start marker. -/
theorem hexByte_marked (m : Byte) (bs : List Byte) (i : Nat) :
    hexByte (m :: bs.flatMap hexPair) (2 * i + 1) = bs[i]? :=
  hexByte_hexPairs bs i

theorem hexBytes_marked (m : Byte) {bs : List Byte} {n i : Nat} (h : i + n ≤ bs.length) :
    hexBytes (m :: bs.flatMap hexPair) (2 * i + 1) n = some ((bs.drop i).take n) := by
  induction n generalizing i with
  | zero => rfl
  | succ n ih =>
    have hi : i < bs.length := by omega
    have hrest : hexBytes (m :: bs.flatMap hexPair) (2 * i + 1 + 2) n = some ((bs.drop (i + 1)).take n) :=
      ih (i := i + 1) (by omega)
    rw [hexBytes, hexByte_marked, List.getElem?_eq_getElem hi, hrest, List.drop_eq_getElem_cons hi]
    rfl

/-- A line whose digits decode comes to the checks on its fields. -/
theorem parse_of_fields {chars : List Byte} {bc ah al ty ck : Byte} {d : List Byte}
    (h0 : chars[0]? = some Config.recStart) (h1 : hexByte chars 1 = some bc) (h3 : hexByte chars 3 = some ah)
    (h5 : hexByte chars 5 = some al) (h7 : hexByte chars 7 = some ty) (hl : 11 + 2 * bc.toNat ≤ chars.length)
    (hd : hexBytes chars 9 bc.toNat = some d) (hck : hexByte chars (9 + 2 * bc.toNat) = some ck) :
    parse chars = parseChecked (half16Of ah al) ty d ck := by
  have hbody : parseBody chars bc ah al ty = parseChecked (half16Of ah al) ty d ck := by
    rw [parseBody, if_neg (by omega), hd, hck]
  rw [parse, if_neg (not_not.mpr h0), if_neg (by omega), h1, h3, h5, h7]
  exact hbody

/-- The text of a record closed by any byte is read back to the checks on its fields. -/
theorem parse_recordText (a : Half16) (ty : Byte) {d : List Byte} (c : Byte) (hd : d.length ≤ 255) :
    parse (Config.recStart :: (recordBytes a ty d ++ [c]).flatMap hexPair) = parseChecked a ty d c := by
  have hbc : (BitVec.ofNat 8 d.length).toNat = d.length := by rw [BitVec.toNat_ofNat]; omega
  have hbytes : (recordBytes a ty d ++ [c]).length = d.length + 5 := by simp [recordBytes, bytes16]
  have hcount : 9 + 2 * d.length = 2 * (d.length + 4) + 1 := by omega
  rw [parse_of_fields (d := d) (ck := c) rfl (hexByte_marked _ _ 0) (hexByte_marked _ _ 1) (hexByte_marked _ _ 2)
    (hexByte_marked _ _ 3), half16Of_bytes]
  · rw [hbc, List.length_cons, Laws.EncodedLength.length_hexPairs, hbytes]; omega
  · rw [hbc]
    refine (hexBytes_marked Config.recStart (i := 4) (by omega)).trans ?_
    simp [recordBytes, bytes16]
  · rw [hbc, hcount, hexByte_marked]
    simp [recordBytes, bytes16]

/-- A record of one of the four types, with the data its type asks for, passes the checks. -/
theorem parseChecked_make {a : Half16} {ty : Byte} {d : List Byte}
    (h : ty = 0x00 ∨ ty = 0x01 ∨ (ty = 0x04 ∧ d.length = 2) ∨ (ty = 0x05 ∧ d.length = 4)) :
    parseChecked a ty d (cksHex (recordBytes a ty d)) = .ok (Record.make a ty d) := by
  rcases h with rfl | rfl | ⟨rfl, h⟩ | ⟨rfl, h⟩ <;> simp [parseChecked, Record.make, *]

theorem parse_encodeRecord {a : Half16} {ty : Byte} {d : List Byte} (hd : d.length ≤ 255)
    (h : ty = 0x00 ∨ ty = 0x01 ∨ (ty = 0x04 ∧ d.length = 2) ∨ (ty = 0x05 ∧ d.length = 4)) :
    parse (encodeRecord a ty d) = .ok (Record.make a ty d) :=
  (parse_recordText a ty _ hd).trans (parseChecked_make h)

end Sys2Proof
end

section
/-! Decode and encode agree (30_encoding.md R90 to R104, R118): which bytes each space reads as which instruction, said
once per frame, and from that the two directions. -/

namespace Sys2Proof

open Machine

/-! ### The frames, from their bytes (R93, R97, R100, R103) -/

/-- Any opcode with its complement passes the test of R111. -/
theorem decodeCommand_compl (cfg : Params) (x : Byte) :
    decodeCommand cfg x (byteCompl x) =
      if x = cfg.opGet then .ok .cmdGet
      else if x = cfg.opRead then .ok .cmdRead
      else if x = cfg.opWrite then .ok .cmdWrite
      else if x = cfg.opErase then .ok .cmdErase
      else if x = Config.opGo then .ok .cmdGo
      else .reject .unknownOpcode := by
  exact if_neg (not_not.mpr (xor_complement x))

theorem decode_address_eq_ok_iff {cfg : Params} {b0 b1 b2 b3 c : Byte} {i : Instr} :
    decode cfg .address [b0, b1, b2, b3, c] = .ok i ↔
      xor8 [b0, b1, b2, b3, c] = 0x00 ∧ i = .addr (addrOf b0 b1 b2 b3) := by
  rw [decode]
  split_ifs <;> simp_all [eq_comm]

theorem decodePayload_eq_ok_iff {cfg : Params} {n : Byte} {rest : List Byte} {i : Instr} :
    decodePayload cfg n rest = .ok i ↔
      (rest.length = n.toNat + 2 ∧ n.toNat + 1 ≤ cfg.frameMax) ∧ xor8 (n :: rest) = 0x00 ∧ i = .pay rest.dropLast := by
  unfold decodePayload
  split_ifs with hcount hx
  · exact iff_of_false not_false fun ⟨_, _⟩ => by omega
  · exact iff_of_false not_false fun ⟨_, h0, _⟩ => hx h0
  · exact ⟨fun h => ⟨by omega, not_not.mp hx, (Decoded.ok.inj h).symm⟩, fun ⟨_, _, hi⟩ => hi ▸ rfl⟩

theorem decodeErase_eq_ok_iff {n : Byte} {rest : List Byte} {i : Instr} :
    decodeErase n rest = .ok i ↔
      (rest.length = 2 * (n.toNat + 1) + 1 ∧ n.toNat + 1 ≤ Config.eraseMaxPages) ∧ xor8 (n :: rest) = 0x00 ∧
        ∃ ps, pagesOf rest.dropLast = some ps ∧ i = .erasePay ps := by
  unfold decodeErase
  split_ifs with hcount hx
  · exact iff_of_false not_false fun ⟨_, _⟩ => by omega
  · exact iff_of_false not_false fun ⟨_, h0, _⟩ => hx h0
  · have hlen : rest.length = 2 * (n.toNat + 1) + 1 ∧ n.toNat + 1 ≤ Config.eraseMaxPages := by omega
    rw [and_iff_right hlen, and_iff_right (not_not.mp hx)]
    cases pagesOf rest.dropLast <;> simp [eq_comm]

/-! ### Decode of encode -/

theorem decode_encode_op (cfg : Params) (o : Op) :
    decode cfg o.toInstr.space (encode cfg o.toInstr) = .ok o.toInstr := by
  cases o <;> rfl

theorem decode_encode_addr (cfg : Params) (a : Addr) : decode cfg .address (encode cfg (.addr a)) = .ok (.addr a) :=
  decode_address_eq_ok_iff.mpr ⟨xor8_withXor (addrBytes a), by rw [addrOf_bytes]⟩

theorem decode_encode_pay {cfg : Params} {d : List Byte} (h1 : 1 ≤ d.length) (hmax : d.length ≤ cfg.frameMax)
    (h2 : d.length ≤ 256) : decode cfg .payload (encode cfg (.pay d)) = .ok (.pay d) := by
  have hn := countByte_toNat h1 h2
  refine decodePayload_eq_ok_iff.mpr ⟨⟨?_, ?_⟩, xor8_withXor (countByte d.length :: d), ?_⟩
  · simp; omega
  · omega
  · simp

theorem decode_encode_erasePay (cfg : Params) {ps : List Half16} (h1 : 1 ≤ ps.length)
    (hmax : ps.length ≤ Config.eraseMaxPages) : decode cfg .erase (encode cfg (.erasePay ps)) = .ok (.erasePay ps) := by
  have h2 : ps.length ≤ 127 := hmax
  have hn := countByte_toNat h1 (by omega)
  refine decodeErase_eq_ok_iff.mpr ⟨⟨?_, ?_⟩, xor8_withXor (countByte ps.length :: pageBytes ps), ps, ?_, rfl⟩
  · simp [Laws.EncodedLength.length_pageBytes]; omega
  · omega
  · simp [pagesOf_pageBytes]

theorem decode_hexLine_encodeRecord (cfg : Params) {a : Half16} {ty : Byte} {d : List Byte} {i : Instr}
    (hd : d.length ≤ 255)
    (h : ty = 0x00 ∨ ty = 0x01 ∨ (ty = 0x04 ∧ d.length = 2) ∨ (ty = 0x05 ∧ d.length = 4))
    (hi : (Record.make a ty d).toInstr = some i) : decode cfg .hexLine (encodeRecord a ty d) = .ok i := by
  simp [decode, parse_encodeRecord hd h, hi]

/-- Settles O1: each constructor's bytes are read back by its space. -/
theorem decodeOfEncodeIsTheInstruction : Obligations.DecodeOfEncodeIsTheInstruction := by
  intro cfg i hcfg hw
  cases i with
  | handshake => exact decode_encode_op cfg .handshake
  | get => exact decode_encode_op cfg .get
  | read => exact decode_encode_op cfg .read
  | write => exact decode_encode_op cfg .write
  | erase => exact decode_encode_op cfg .erase
  | go => exact decode_encode_op cfg .go
  | goEntry => exact decode_encode_op cfg .goEntry
  | upload => exact decode_encode_op cfg .upload
  | sync | ack | nack => rfl
  | cmdGet | cmdRead | cmdWrite | cmdErase | cmdGo =>
    obtain ⟨hdistinct, _⟩ := hcfg
    simp only [List.nodup_cons, List.mem_cons, not_or] at hdistinct
    refine (decodeCommand_compl cfg _).trans ?_
    grind -- the five opcodes are distinct (R7)
  | addr a => exact decode_encode_addr cfg a
  | len n => exact if_pos (xor_complement n)
  | pay d =>
    obtain ⟨h1, hmax, h2⟩ := of_decide_eq_true hw
    exact decode_encode_pay h1 hmax h2
  | erasePay ps =>
    obtain ⟨h1, hmax⟩ := of_decide_eq_true hw
    exact decode_encode_erasePay cfg h1 hmax
  | rspOther r =>
    obtain ⟨ha, hn⟩ := of_decide_eq_true hw
    exact congrArg Decoded.ok (decodeResponse_rspOther ha hn)
  | getRsp v ops =>
    have hops : ops.length ≤ 255 := of_decide_eq_true hw
    exact if_pos (by rw [BitVec.toNat_ofNat]; omega)
  | rdData d => exact if_pos (of_decide_eq_true hw)
  | recData a d => exact decode_hexLine_encodeRecord cfg (of_decide_eq_true hw) (.inl rfl) rfl
  | recEof a d => exact decode_hexLine_encodeRecord cfg (of_decide_eq_true hw) (.inr (.inl rfl)) rfl
  | recEla a d0 d1 => exact decode_hexLine_encodeRecord cfg (by simp) (.inr (.inr (.inl ⟨rfl, rfl⟩))) rfl
  | recSla a d0 d1 d2 d3 => exact decode_hexLine_encodeRecord cfg (by simp) (.inr (.inr (.inr ⟨rfl, rfl⟩))) rfl

/-! ### Encode of decode -/

/-- `i` is a well-formed instruction of the space `sp`, and `bytes` are its encoding. -/
structure EncodesIn (cfg : Params) (sp : Space) (bytes : List Byte) (i : Instr) : Prop where
  wf : i.wf cfg = true
  space : i.space = sp
  bytes : encode cfg i = bytes

theorem Op.toInstr_encodesIn (cfg : Params) (o : Op) : EncodesIn cfg .opSelect [o.code.setWidth 8] o.toInstr := by
  cases o <;> exact ⟨rfl, rfl, rfl⟩

theorem opOfCode_code (c : BitVec 3) : (opOfCode c).code = c := by
  revert c; decide

theorem decodeOp_encodesIn (cfg : Params) {b : Byte} (h : b.toNat < 8) :
    EncodesIn cfg .opSelect [b] (decodeOp (b.setWidth 3)) := by
  have hb : (b.setWidth 3).setWidth 8 = b := by apply BitVec.eq_of_toNat_eq; simp; omega
  have henc := Op.toInstr_encodesIn cfg (opOfCode (b.setWidth 3))
  rwa [opOfCode_code, hb] at henc

theorem decodeCommand_encodesIn {cfg : Params} {x y : Byte} {i : Instr} (h : decodeCommand cfg x y = .ok i) :
    EncodesIn cfg .command [x, y] i := by
  have hy : y = byteCompl x := by
    by_contra hne
    rw [decodeCommand, if_pos fun hx => hne (complement_of_xor hx)] at h
    exact Decoded.noConfusion h
  subst hy
  rw [decodeCommand_compl] at h
  split_ifs at h <;> obtain rfl := Decoded.ok.inj h <;> subst x <;>
    exact ⟨rfl, rfl, rfl⟩

theorem decode_address_encodesIn {cfg : Params} {b0 b1 b2 b3 c : Byte} {i : Instr}
    (h : decode cfg .address [b0, b1, b2, b3, c] = .ok i) : EncodesIn cfg .address [b0, b1, b2, b3, c] i := by
  obtain ⟨hx, rfl⟩ := decode_address_eq_ok_iff.mp h
  refine ⟨rfl, rfl, ?_⟩
  rw [encode, addrBytes_addrOf]
  exact withXor_dropLast (List.cons_ne_nil _ _) hx

/-- A frame whose bytes XOR to 0x00 is its first byte and what stands before its last one, closed by their checksum. -/
theorem withXor_cons_dropLast {n : Byte} {rest : List Byte} (hr : rest.length ≠ 0) (hx : xor8 (n :: rest) = 0x00) :
    withXor (n :: rest.dropLast) = n :: rest := by
  have hdrop : (n :: rest).dropLast = n :: rest.dropLast :=
    List.dropLast_cons_of_ne_nil (List.length_eq_zero_iff.not.mp hr)
  exact hdrop ▸ withXor_dropLast (List.cons_ne_nil n rest) hx

theorem decodePayload_encodesIn {cfg : Params} {n : Byte} {rest : List Byte} {i : Instr}
    (h : decodePayload cfg n rest = .ok i) : EncodesIn cfg .payload (n :: rest) i := by
  obtain ⟨⟨hl, hmax⟩, hx, rfl⟩ := decodePayload_eq_ok_iff.mp h
  have hd : rest.dropLast.length = n.toNat + 1 := by rw [List.length_dropLast]; omega
  have hn := n.isLt
  refine ⟨decide_eq_true (by omega), rfl, ?_⟩
  rw [encode, hd, countByte_toNat_succ, withXor_cons_dropLast (by omega) hx]

theorem decodeErase_encodesIn {cfg : Params} {n : Byte} {rest : List Byte} {i : Instr}
    (h : decodeErase n rest = .ok i) : EncodesIn cfg .erase (n :: rest) i := by
  obtain ⟨⟨hl, hmax⟩, hx, ps, hp, rfl⟩ := decodeErase_eq_ok_iff.mp h
  have hbytes := pageBytes_pagesOf _ ps hp
  have hps : ps.length = n.toNat + 1 := by
    have hlen := congrArg List.length hbytes
    rw [Laws.EncodedLength.length_pageBytes, List.length_dropLast] at hlen
    omega
  refine ⟨decide_eq_true ⟨by omega, hps ▸ hmax⟩, rfl, ?_⟩
  rw [encode, hps, countByte_toNat_succ, hbytes, withXor_cons_dropLast (by omega) hx]

theorem decodeResponse_encodesIn (cfg : Params) (r : Byte) : EncodesIn cfg .response [r] (decodeResponse r) := by
  unfold decodeResponse
  split_ifs with ha hn
  · exact ⟨rfl, rfl, by rw [ha]; rfl⟩
  · exact ⟨rfl, rfl, by rw [hn]; rfl⟩
  · exact ⟨decide_eq_true ⟨ha, hn⟩, rfl, rfl⟩

theorem getRsp_encodesIn {cfg : Params} {n : Byte} {ops : List Byte} (v : Byte) (h : ops.length = n.toNat) :
    EncodesIn cfg .getRsp (n :: v :: ops) (.getRsp v ops) := by
  have hn := n.isLt
  refine ⟨decide_eq_true (by omega), rfl, ?_⟩
  rw [encode, h, BitVec.ofNat_toNat, BitVec.setWidth_eq]

/-- Outside the text of a record what decodes has this one encoding. -/
theorem decode_encodesIn {cfg : Params} {sp : Space} {bytes : List Byte} {i : Instr} (hsp : sp ≠ .hexLine)
    (h : decode cfg sp bytes = .ok i) : EncodesIn cfg sp bytes i := by
  unfold decode at h
  split at h
  next => -- an op select code
    split_ifs at h with hb
    obtain rfl := Decoded.ok.inj h
    exact decodeOp_encodesIn cfg hb
  next => -- `SYNC`
    split_ifs at h with hb
    obtain rfl := Decoded.ok.inj h
    exact ⟨rfl, rfl, by rw [hb]; rfl⟩
  next => exact decodeCommand_encodesIn h
  next => exact decode_address_encodesIn h
  next => -- a length frame
    split_ifs at h with hc
    obtain rfl := Decoded.ok.inj h
    exact ⟨rfl, rfl, by rw [complement_of_xor hc]; rfl⟩
  next => exact decodePayload_encodesIn h
  next => exact decodeErase_encodesIn h
  next =>
    obtain rfl := Decoded.ok.inj h
    exact decodeResponse_encodesIn cfg _
  next v _ => -- a Get response
    split_ifs at h with hl
    obtain rfl := Decoded.ok.inj h
    exact getRsp_encodesIn v hl
  next => -- read data
    split_ifs at h with hl
    obtain rfl := Decoded.ok.inj h
    exact ⟨decide_eq_true hl, rfl, rfl⟩
  next => exact absurd rfl hsp
  next => exact Decoded.noConfusion h

/-- A genuine record is a well-formed record instruction. -/
theorem Record.toInstr_wf_space {cfg : Params} {r : Record} {i : Instr} (hr : Genuine r) (hi : r.toInstr = some i) :
    i.wf cfg = true ∧ i.space = .hexLine := by
  unfold Record.toInstr at hi
  split_ifs at hi
  · cases hi; exact ⟨decide_eq_true hr.count, rfl⟩
  · cases hi; exact ⟨decide_eq_true hr.count, rfl⟩
  · split at hi <;> cases hi; exact ⟨rfl, rfl⟩
  · split at hi <;> cases hi; exact ⟨rfl, rfl⟩

/-- Settles O2: a line decodes to a genuine record's instruction, and in the other spaces the encoding is unique. -/
theorem decodedBytesAreTheEncoding : Obligations.DecodedBytesAreTheEncoding := by
  intro cfg sp bytes i _ h
  by_cases hsp : sp = .hexLine
  · subst hsp
    obtain ⟨r, hr, hi⟩ := decode_hexLine h
    obtain ⟨hw, hs⟩ := Record.toInstr_wf_space (genuine_of_parse hr) hi
    exact ⟨hw, hs, fun hne => absurd rfl hne⟩
  · obtain ⟨hw, hs, henc⟩ := decode_encodesIn hsp h
    exact ⟨hw, hs, fun _ => henc⟩

end Sys2Proof
end

section
/-! The layouts of the frames (30_encoding.md R91 to R103), byte by byte: the spec's own words, and what each frame holds
for every operand. -/

namespace Sys2Proof

open Machine Laws.EncodedLength

/-- Settles O3: each word by the layout table of its space. -/
theorem specWordsDecode : Obligations.SpecWordsDecode :=
  ⟨rfl, rfl, rfl, rfl, rfl, rfl, rfl, rfl, rfl, rfl, rfl⟩

/-- Settles O5: the two directions of the address frame, whose checksum byte is the XOR of the four before. -/
theorem addressFrameRoundTrip : Obligations.AddressFrameRoundTrip := by
  refine ⟨fun cfg a => ⟨?_, decode_encode_addr cfg a⟩, fun cfg b0 b1 b2 b3 c => ⟨?_, ?_⟩⟩
  · simp [encode, withXor, addrBytes, xor8]
  · constructor
    · rintro ⟨a, ha⟩
      obtain ⟨hx, _⟩ := decode_address_eq_ok_iff.mp ha
      exact hx
    · exact fun hx => ⟨_, decode_address_eq_ok_iff.mpr ⟨hx, rfl⟩⟩
  · intro a ha
    obtain ⟨_, hi⟩ := decode_address_eq_ok_iff.mp ha
    exact Instr.addr.inj hi

/-- Settles O6: the frame by its layout, and the checks of the decoder as an equivalence. -/
theorem payloadFrameWellFormed : Obligations.PayloadFrameWellFormed := by
  refine ⟨fun cfg d _ _ _ => ⟨rfl, pay d cfg⟩, fun cfg n rest _ => ⟨?_, ?_⟩⟩
  · rintro ⟨d, hd⟩
    obtain ⟨⟨hl, hmax⟩, hx, _⟩ := decodePayload_eq_ok_iff.mp hd
    exact ⟨congrArg (· + 1) hl, hx, hmax⟩
  · rintro ⟨hl, hx, hmax⟩
    exact ⟨_, decodePayload_eq_ok_iff.mpr ⟨⟨Nat.succ.inj hl, hmax⟩, hx, rfl⟩⟩

/-- Settles O7: the body is the count byte and the page list. -/
theorem eraseFrameListsThePages : Obligations.EraseFrameListsThePages := by
  intro cfg ps _ hmax
  have hlen : (encode cfg (.erasePay ps)).length = 2 * ps.length + 2 := erasePay ps cfg
  have hbuf : 2 * ps.length + 2 ≤ 256 := by omega
  exact ⟨_, rfl, rfl, hlen, hlen ▸ hbuf⟩

end Sys2Proof
end

section
/-! What the engine transmits (40_framing.md R146, R150): the instruction each sending phase fetches, that it is well
formed and admitted under the invariant, and that no other step transmits. -/

namespace Sys2Proof.Machine

theorem State.fetchGoAddr_of_operand {s : State} {a : Addr} (h : s.goOperand = some a) :
    s.fetchGoAddr = .run (.addr a) s := by
  rw [State.fetchGoAddr, h]

/-- The fetch of a sending phase is the frame it sends, whatever the environment will do. -/
theorem Sends.fetch_with_env {s : State} {i : Instr} (h : Sends s i) (e : Env) :
    ({ s with env := e } : State).fetch = .run i { s with env := e } := by
  cases h with
  | goAddr hp ha =>
    simp only [State.fetch, hp]
    exact State.fetchGoAddr_of_operand ha
  | writeAddr hp | writePay hp => simp only [State.fetch, hp]; rfl
  | sync hp | cmdGet hp | cmdRead hp | cmdWrite hp | cmdErase hp | cmdGo hp | readAddr hp | readLen hp | erasePay hp =>
    simp only [State.fetch, hp]

theorem Sends.fetch {s : State} {i : Instr} (h : Sends s i) : s.fetch = .run i s := h.fetch_with_env s.env

theorem Sends.isFrame {s : State} {i : Instr} (h : Sends s i) : isFrame i = true := by cases h <;> rfl

theorem Sends.engineStep {s : State} {i : Instr} (h : Sends s i) :
    engineStep s = .next (s.sendFrame (encode s.cfg i)) :=
  (engineStep_of_run h.fetch).trans (exec_frame s h.isFrame)

/-- Settles O4: the opcode and its complement, and the phase that sends a length. -/
theorem twoByteFramesCarryTheComplement : Obligations.TwoByteFramesCarryTheComplement := by
  refine ⟨fun cfg => ⟨rfl, rfl, rfl, rfl, rfl⟩, fun op => ⟨rfl, xor_complement op⟩, fun s n _ _ => ⟨rfl, ?_⟩⟩
  rintro hp rfl
  exact engineStep_of_run (Sends.readLen hp).fetch

/-- The bytes of an admitted write are 1 .. `FRAME_MAX` (R202, R273). -/
theorem WriteReady.length_bounds {s : State} (h : WriteReady s) (hc : s.cfg.Valid) :
    1 ≤ s.writeOperands.2.length ∧ s.writeOperands.2.length ≤ s.cfg.frameMax := by
  obtain ⟨_, _, hframe, _, _, hchunk, hfits, _⟩ := hc
  unfold State.writeOperands
  rcases h with ⟨_, ⟨ho, h1, hmax⟩ | ⟨ho, _, _, hoff⟩⟩
  · simp [ho, Operands.bytes]; omega
  · have hleft : s.chunkOff < s.record.data.length := hoff
    simp [ho, State.chunkBytes]; omega

/-- Under the invariant the operands of a frame are in their ranges (R200). -/
theorem Sends.wf {s : State} {i : Instr} (hs : Sends s i) (h : EngineInv s) : i.wf s.cfg = true := by
  have hok := h.phaseOk
  cases hs with
  | writePay hp =>
    have hw : WriteReady s := by simpa only [PhaseOk, hp] using hok
    obtain ⟨h1, hmax⟩ := hw.length_bounds h.params
    exact decide_eq_true ⟨h1, hmax, State.writeOperands_length_le h.params⟩
  | erasePay hp =>
    obtain ⟨_, _, h1, _⟩ : s.op = .erase ∧ s.cfg.opErase ∈ s.cmdSet ∧ 1 ≤ s.args.npages ∧
        s.args.npages ≤ Config.eraseMaxPages := by simpa only [PhaseOk, hp] using hok
    have hlen : 1 ≤ s.args.pageList.length := by simp [Operands.pageList]; omega
    exact decide_eq_true ⟨hlen, s.args.pageList_length_le⟩
  | _ => rfl

/-- Under the invariant the command frame of a gated command is sent by an operation that passed the gate (R179). -/
theorem Sends.gate_passed {s : State} {i : Instr} (hs : Sends s i) (h : EngineInv s) {x : Byte}
    (hx : gatedFrame s.cfg i = some x) : x ∈ s.cmdSet ∧ s.session = .ready := by
  have hok := h.phaseOk
  have hi : s.phase ≠ .idle := by cases hs <;> simp_all
  obtain ⟨hset, ho⟩ : x ∈ s.cmdSet ∧ s.op ≠ .handshake := by
    cases hs with
    | cmdRead hp | cmdErase hp =>
      obtain rfl := Option.some.inj hx
      simp only [PhaseOk, hp] at hok
      obtain ⟨ho, hset, _⟩ := hok
      exact ⟨hset, by simp [ho]⟩
    | cmdWrite hp =>
      obtain rfl := Option.some.inj hx
      simp only [PhaseOk, hp] at hok
      obtain ⟨hset, ⟨ho, _⟩ | ⟨ho, _⟩⟩ := hok <;> exact ⟨hset, by simp [ho]⟩
    | cmdGo hp =>
      obtain rfl := Option.some.inj hx
      simp only [PhaseOk, hp] at hok
      obtain ⟨hset, ho | ⟨ho, _⟩⟩ := hok <;> exact ⟨hset, by simp [ho]⟩
    | _ => simp [gatedFrame] at hx
  exact ⟨hset, h.otherSession (h.busy_of_phase hi) ho⟩

theorem State.sendFrame_trace (s : State) (f : List Byte) :
    (s.sendFrame f).env.trace = s.env.trace ++ [.tx f s.cfg.tTx s.nextTxReply] := by
  rcases s.sendFrame_cases f with ⟨_, e⟩ | ⟨_, e⟩ <;> rw [e] <;> exact s.tx_trace f

theorem State.sendFrame_txBuf (s : State) (f : List Byte) : (s.sendFrame f).txBuf = f := by
  rcases s.sendFrame_cases f with ⟨_, e⟩ | ⟨_, e⟩ <;> rw [e] <;> exact s.tx_txBuf f

/-- A step that transmits sends the frame of its phase. -/
theorem engineStep_transmits {s t : State} {f : List Byte} {tm : Nat} {p : TxReply} (h : engineStep s = .next t)
    (htx : t.env.trace = s.env.trace ++ [.tx f tm p]) :
    ∃ i, Sends s i ∧ f = encode s.cfg i ∧ t.txBuf = f ∧ tm = s.cfg.tTx := by
  rcases (engineStep_move h).call_cases with ⟨i, hs⟩ | ⟨_, _, _, e⟩ | e
  · obtain rfl := Host.Outcome.next.inj (hs.engineStep.symm.trans h)
    rw [State.sendFrame_trace] at htx
    obtain ⟨hf, htm, _⟩ := ChanCall.tx.inj (List.singleton_inj.mp (List.append_cancel_left htx))
    exact ⟨i, hs, hf.symm, (State.sendFrame_txBuf s _).trans hf, htm.symm⟩
  · simp [htx] at e
  · simp [htx] at e

/-- Settles O57: the step transmits the frame of its phase, which the invariant makes well formed and admitted. -/
theorem everyTransmitIsAnAdmittedFrame : Obligations.EveryTransmitIsAnAdmittedFrame := by
  intro s t f tm p h hn hst htx
  rw [step_engine hn] at hst
  have h' := h.writeUnread { s.env with resetLine := s.env.resetLine.tail } s.freeCtr s.line s.lineIndex
  obtain ⟨i, hs, hf, hbuf, htm⟩ := engineStep_transmits hst htx
  exact ⟨i, hs.fetch_with_env s.env, hs.isFrame, hs.wf h', hf, hbuf, htm, fun _ => hs.gate_passed h'⟩

end Sys2Proof.Machine
end

section
/-! The frames sent and the bytes received (40_framing.md R141 to R151): what one transmit and one failed receive write,
where each response byte leads, and the count and the timeout of every receive. -/

namespace Sys2Proof.Machine

/-! ### Sending a frame (R141, R146) -/

/-- A failed stage ends alike before and after a channel call. -/
theorem SameButForTheCall.faultedWith {s t : State} (h : SameButForTheCall s t) (k : Status) :
    SameButForTheCall (faultedWith s k) (faultedWith t k) :=
  congrArg (Machine.faultedWith · k) h

theorem State.sendFrame_of_ok {s : State} (h : s.nextTxReply = .ok) (f : List Byte) :
    s.sendFrame f = { s.tx f with phase := s.phase.sent } := by
  rw [State.sendFrame, h]

theorem State.sendFrame_of_error {s : State} (h : s.nextTxReply = .error) (f : List Byte) :
    s.sendFrame f = faultedWith (s.tx f) .transportError := by
  rw [State.sendFrame, h]
  exact State.stageFails_eq _ rfl

/-- Settles O23: a frame is sent by `sendFrame`, whose transmit answers `ok` or `error`. -/
theorem frameIsOneTransmit : Obligations.FrameIsOneTransmit := by
  intro i s hi
  have hcall := sameButForTheCall_tx s (encode s.cfg i)
  have henv := s.tx_env (encode s.cfg i)
  rw [exec_frame s hi]
  refine ⟨fun hr => ⟨_, rfl, ?_⟩, fun hr => ⟨_, rfl, ?_⟩⟩ <;> rw [hr] at henv
  · rw [State.sendFrame_of_ok hr]
    exact ⟨hcall, s.tx_txBuf _, rfl, henv⟩
  · rw [State.sendFrame_of_error hr]
    exact ⟨hcall.faultedWith _, s.tx_txBuf _, rfl, henv⟩

/-! ### The acknowledge byte (R144) -/

/-- What an ACK does is read off at a known phase. -/
theorem exec_ack_of_phase {s t : State} {p : Phase} (hp : s.phase = p)
    (h : ({ s with phase := p } : State).acknowledged = t) : exec .ack s = .next t := by
  subst hp
  exact congrArg _ h

theorem exec_nack (s : State) : exec .nack s = .next s.notAcknowledged := rfl

theorem exec_rspOther (b : Byte) (s : State) : exec (.rspOther b) s = .next s.notAcknowledged := rfl

/-- A `WRITE` is done with its one payload (R202). -/
theorem State.writeDone_of_not_upload {s : State} (h : s.op ≠ .upload) : s.writeDone = s.done := if_neg h

theorem State.acknowledged_of_not_awaiting {s : State} (h : s.phase.awaitsAck = false) : s.acknowledged = s := by
  unfold State.acknowledged
  split
  case h_13 => rfl
  all_goals simp_all [Phase.awaitsAck]

theorem State.notAcknowledged_of_awaiting {s : State} (h : s.phase.awaitsAck = true) :
    s.notAcknowledged = faultedWith s .protocolNack :=
  (if_pos h).trans (s.stageFails_eq rfl)

theorem State.notAcknowledged_of_not_awaiting {s : State} (h : s.phase.awaitsAck = false) : s.notAcknowledged = s :=
  if_neg (by simp [h])

theorem decodeResponse_of_ne_ack {b : Byte} (h : b ≠ Config.ack) :
    decodeResponse b = .nack ∨ decodeResponse b = .rspOther b := by
  by_cases hn : b = Config.nack
  · subst hn; exact .inl rfl
  · exact .inr (decodeResponse_rspOther h hn)

/-- Settles O24: the next phase by the phase that awaits, and after a payload by the operation. -/
theorem ackMovesToTheNextStage : Obligations.AckMovesToTheNextStage := by
  intro s
  refine ⟨?syncAck, ?getCmd, ?rdCmd, ?rdAddr, ?rdLen, ?wrCmd, ?wrAddr, ?wrPay, ?erCmd, ?erPay,
    ?goCmd, ?goAddr, ?silent⟩
  case wrPay => exact fun hp ho => exec_ack_of_phase hp (State.writeDone_of_not_upload ho)
  case silent => exact fun hw => congrArg _ (State.acknowledged_of_not_awaiting hw)
  all_goals exact fun hp => exec_ack_of_phase hp rfl

/-- Settles O26: `NACK` and `RSP_OTHER` have one meaning, by whether the phase awaits a response. -/
theorem otherResponsesAreProtocolNack : Obligations.OtherResponsesAreProtocolNack := by
  refine ⟨fun b hb => decodeResponse_of_ne_ack hb, fun s b => ?_⟩
  rw [exec_nack, exec_rspOther]
  refine ⟨fun hw => ?_, fun hw => ?_⟩
  · rw [State.notAcknowledged_of_awaiting hw]; exact ⟨rfl, rfl⟩
  · rw [State.notAcknowledged_of_not_awaiting hw]; exact ⟨rfl, rfl⟩

/-! ### The receives (R142, R151) -/

/-- The fetch of a receiving phase is its receive. -/
theorem Receives.fetch {s : State} {n t : Nat} (h : Receives s n t) : ∃ got, s.fetch = s.receive n t got := by
  cases h with
  | response hp => exact ⟨_, fetch_response hp⟩
  | getLen hp | getList hp | readData hp => exact ⟨_, by simp only [State.fetch, hp]; rfl⟩

theorem Receives.engineStep_of_timeout {s : State} {n t : Nat} (h : Receives s n t) (hx : s.nextRxReply n = .timeout) :
    engineStep s = .next (faultedWith (s.rx n t) .protocolTimeout) := by
  obtain ⟨got, hf⟩ := h.fetch
  rw [engineStep, hf, State.receive, hx, ← State.stageFails_eq _ rfl]

theorem Receives.engineStep_of_error {s : State} {n t : Nat} (h : Receives s n t) (hx : s.nextRxReply n = .error) :
    engineStep s = .next (faultedWith (s.rx n t) .transportError) := by
  obtain ⟨got, hf⟩ := h.fetch
  rw [engineStep, hf, State.receive, hx, ← State.stageFails_eq _ rfl]

/-- Settles O37: the laws of one receive, and its two failures in every receiving phase. -/
theorem receiveDeliversAllOrFails : Obligations.ReceiveDeliversAllOrFails := by
  refine ⟨fun s n t => ⟨fun b hb => State.nextRxReply_length hb, sameButForTheCall_rx s n t, s.rx_phase n t,
    s.rx_txBuf n t, s.rx_trace n t⟩, fun s n t h => ?_⟩
  have hr : Receives s n t := by
    rcases h with ⟨hp, rfl, rfl⟩ | ⟨hp, rfl, rfl⟩ | ⟨k, hp, rfl, rfl⟩ | ⟨hp, rfl, rfl⟩
    · exact .response hp
    · exact .getLen hp
    · exact .getList hp
    · exact .readData hp
  exact ⟨hr.engineStep_of_timeout, hr.engineStep_of_error⟩

theorem engineStep_getLen {s : State} {x : Byte} (hp : s.phase = .getLen) (hx : s.nextRxReply 1 = .ok [x]) :
    engineStep s = .next ((s.rx 1 s.cfg.tData).getLengthByte x) := by
  simp [engineStep, State.fetch, State.fetchGetLength, hp, State.receive_of_ok hx]

/-- What follows the bytes of a receive makes no further call. -/
theorem Receives.makesNoCall_of_ok {s t : State} {n tm : Nat} {b : List Byte} (hr : Receives s n tm)
    (hx : s.nextRxReply n = .ok b) (h : engineStep s = .next t) : MakesNoCall (s.rx n tm) t := by
  cases hr with
  | response hp =>
    obtain ⟨x, rfl⟩ := State.nextRxReply_one hx
    rw [engineStep_response hp hx] at h
    rcases exec_response (by rw [State.rx_phase, hp]) h with ⟨_, rfl⟩ | ⟨_, rfl⟩
    · exact makesNoCall_acknowledged _
    · exact makesNoCall_stageFails _ _
  | getLen hp =>
    obtain ⟨x, rfl⟩ := State.nextRxReply_one hx
    rw [engineStep_getLen hp hx] at h
    obtain rfl := Host.Outcome.next.inj h
    exact makesNoCall_getLengthByte _ _
  | getList hp =>
    obtain ⟨v, ops, rfl⟩ := List.exists_cons_of_length_eq_add_one (State.nextRxReply_length hx)
    rw [engineStep_getList hp hx] at h
    exact makesNoCall_getRsp h
  | readData hp =>
    rw [engineStep_readData hp hx] at h
    exact makesNoCall_rdData h

/-- A step of a receiving phase makes its one receive, and that is all of its channel calls. -/
theorem Receives.trace {s t : State} {n tm : Nat} (hr : Receives s n tm) (h : engineStep s = .next t) :
    t.env.trace = s.env.trace ++ [.rx n tm (s.nextRxReply n)] := by
  have hcall : MakesNoCall (s.rx n tm) t := by
    cases hx : s.nextRxReply n with
    | ok b => exact hr.makesNoCall_of_ok hx h
    | timeout =>
      obtain rfl := Host.Outcome.next.inj ((hr.engineStep_of_timeout hx).symm.trans h)
      exact ⟨rfl, rfl⟩
    | error =>
      obtain rfl := Host.Outcome.next.inj ((hr.engineStep_of_error hx).symm.trans h)
      exact ⟨rfl, rfl⟩
  rw [hcall.trace, State.rx_trace]

theorem State.drainOnce_trace (s : State) :
    s.drainOnce.env.trace = s.env.trace ++ [.rx 1 s.cfg.tDrain (s.nextRxReply 1)] := by
  rcases s.drainOnce_cases with e | e <;> rw [e] <;> exact s.rx_trace 1 s.cfg.tDrain

theorem engineStep_drain {s : State} (hp : s.phase = .hsDrain) : engineStep s = .next s.drainOnce := by
  rw [engineStep, State.fetch, hp]

/-- Without a reset a step is the engine's own, in an environment with the same trace. -/
theorem engineStep_of_step {s t : State} (hn : NoReset s) (h : step s = .next t) :
    ∃ e : Env, e.trace = s.env.trace ∧ engineStep { s with env := e } = .next t :=
  ⟨{ s.env with resetLine := s.env.resetLine.tail }, rfl, (step_engine hn).symm.trans h⟩

/-- Which receive a phase makes does not depend on the environment. -/
theorem Receives.with_env {s : State} {n t : Nat} (h : Receives s n t) (e : Env) :
    Receives { s with env := e } n t := by
  cases h with
  | response hp => exact .response hp
  | getLen hp => exact .getLen hp
  | getList hp => exact .getList hp
  | readData hp => exact .readData hp

/-- The response a phase awaits is received within the timeout of that phase (R151). -/
theorem Receives.response_of_phase {s : State} {p : Phase} (hp : s.phase = p) (hw : p.awaitsAck = true) :
    Receives s 1 ({ s with phase := p } : State).ackTimeout := by
  subst hp
  exact .response hw

/-- The acknowledge of a command, an address or a length is awaited for `T_ACK` (R151). -/
theorem Receives.plainAck {s : State}
    (h : s.phase ∈ [.getCmd .await, .rdCmd .await, .wrCmd .await, .erCmd .await, .goCmd .await,
      .rdAddr .await, .wrAddr .await, .goAddr .await, .rdLen .await]) : Receives s 1 s.cfg.tAck := by
  simp only [List.mem_cons, List.not_mem_nil, or_false] at h
  rcases h with hp | hp | hp | hp | hp | hp | hp | hp | hp <;> exact .response_of_phase hp rfl

/-- Settles O38: each phase named receives once, with the timeout of its row of R151. -/
theorem eachReceiveHasItsTimeout : Obligations.EachReceiveHasItsTimeout := by
  intro s t hn h
  obtain ⟨e, he, h⟩ := engineStep_of_step hn h
  rw [← he]
  have received {n tm : Nat} (hr : Receives s n tm) : ∃ r, t.env.trace = e.trace ++ [.rx n tm r] :=
    ⟨_, (hr.with_env e).trace h⟩
  refine ⟨fun hp => ?drain, fun hp => received (.response_of_phase hp rfl), fun hp => received (.plainAck hp),
    fun hp => received (.response_of_phase hp rfl), fun hp => received (.response_of_phase hp rfl),
    fun hp => received (.getLen hp), fun n hp => received (.getList hp), fun hp => received (.readData hp)⟩
  case drain =>
    obtain rfl := Host.Outcome.next.inj ((engineStep_drain (s := { s with env := e }) hp).symm.trans h)
    exact ⟨_, State.drainOnce_trace _⟩

end Sys2Proof.Machine
end

section
/-! The requests of a session (41_session.md R171, R172, R178, R179, R181): the order of the tests of admission, what a refused
and an admitted request write, and the commit of a handshake. -/

namespace Sys2Proof.Machine

/-! ### Admission (R181, R303) -/

/-- The operand check of an operation, the last test of its admission (R201 to R203, R205). -/
def State.operandCheck (s : State) : Op → Option Status
  | .read => rangeCheck s.args.len Config.readMax
  | .write => rangeCheck s.args.len s.cfg.frameMax
  | .erase => rangeCheck s.args.npages Config.eraseMaxPages
  | .goEntry => if s.entry.isSome then none else some .entryUnset
  | .handshake | .get | .go | .upload => none

/-- The gate lets `o` pass: its opcode, if it has one, is in `cmd_set` (R179). -/
def State.PassesGate (s : State) (o : Op) : Prop := ∀ x, gateOpcode s.cfg o = some x → x ∈ s.cmdSet

theorem State.passesGate_of_ungated {s : State} {o : Op} (h : gateOpcode s.cfg o = none) : s.PassesGate o :=
  fun _ hx => by cases h.symm.trans hx

theorem State.passesGate_of_mem {s : State} {o : Op} {x : Byte} (h : gateOpcode s.cfg o = some x)
    (hx : x ∈ s.cmdSet) : s.PassesGate o :=
  fun _ hy => Option.some.inj (h.symm.trans hy) ▸ hx

theorem State.gated_of_not_mem {s : State} {x : Byte} (h : x ∉ s.cmdSet) (c : Option Status) :
    s.gated x c = some .unsupported := by
  simp [State.gated, State.inSet, h]

theorem State.gated_of_mem {s : State} {x : Byte} (h : x ∈ s.cmdSet) (c : Option Status) :
    s.gated x c = if s.session = .ready then c else some .notReady := by
  simp [State.gated, State.inSet, h]

/-- A gated operation meets the gate first (R181). -/
theorem State.refusal_eq_gated {s : State} {o : Op} {x : Byte} (h : gateOpcode s.cfg o = some x) :
    s.refusal o = s.gated x (s.operandCheck o) := by
  cases o <;> cases h <;> rfl

/-- An operation that the gate lets pass, or that has none, meets the session state before its operands (R303). -/
theorem State.refusal_past_gate {s : State} {o : Op} (ho : o ≠ .handshake) (hg : s.PassesGate o) :
    s.refusal o = if s.session = .ready then s.operandCheck o else some .notReady := by
  cases o with
  | handshake => exact absurd rfl ho
  | get | upload => simp [State.refusal, State.readyCheck, State.operandCheck]
  | read | write | erase | go | goEntry => exact State.gated_of_mem (hg _ rfl) _

theorem rangeCheck_of_in {n max : Nat} (h1 : 1 ≤ n) (hmax : n ≤ max) : rangeCheck n max = none := by
  simp [rangeCheck]; omega

theorem State.operandCheck_of_outOfRange {s : State} {o : Op} (h : OperandsOutOfRange s o) :
    s.operandCheck o = some .badOperand := by
  cases o with
  | read | write | erase => exact if_pos h
  | handshake | get | go | goEntry | upload => exact absurd h id

theorem faults_of_rangeCheck {n max : Nat} {k : Status} (h : rangeCheck n max = some k) : k.faults = false := by
  unfold rangeCheck at h
  split at h <;> cases h
  rfl

theorem State.faults_of_readyCheck {s : State} {k : Status} (h : s.readyCheck = some k) : k.faults = false := by
  unfold State.readyCheck at h
  split at h <;> cases h
  rfl

theorem State.faults_of_gated {s : State} {x : Byte} {c : Option Status} {k : Status}
    (hc : c = some k → k.faults = false) (h : s.gated x c = some k) : k.faults = false := by
  rcases s.gated_cases x c with ⟨_, e⟩ | ⟨_, _, e⟩ | ⟨_, _, e⟩ <;> rw [e] at h
  · cases h; rfl
  · cases h; rfl
  · exact hc h

/-- No refusal has a channel kind (R302, R307). -/
theorem State.faults_of_refusal {s : State} {o : Op} {k : Status} (h : s.refusal o = some k) : k.faults = false := by
  cases o with
  | handshake => cases h
  | get | upload => exact State.faults_of_readyCheck h
  | read | write | erase => exact State.faults_of_gated faults_of_rangeCheck h
  | go => exact State.faults_of_gated (fun e => by cases e) h
  | goEntry => exact State.faults_of_gated (fun e => by split at e <;> cases e; rfl) h

/-- A refusal writes `status` and `op` (R200; log 23). -/
theorem State.request_of_refused {s : State} {o : Op} {k : Status} (hb : s.busy = false) (h : s.refusal o = some k)
    (start : State → State) : s.request o start = refusedWith s o k := by
  rcases s.request_cases o start with ⟨hb', _⟩ | ⟨_, k', hk, e⟩ | ⟨_, hk, _⟩
  · exact Bool.noConfusion (hb.symm.trans hb')
  · obtain rfl := Option.some.inj (hk.symm.trans h)
    rw [e, State.fail, State.faults_of_refusal hk]
    rfl
  · cases hk.symm.trans h

theorem State.request_of_admitted {s : State} {o : Op} (hb : s.busy = false) (h : s.refusal o = none)
    (start : State → State) : s.request o start = start { s with op := o, busy := true } := by
  rcases s.request_cases o start with ⟨hb', _⟩ | ⟨_, k, hk, _⟩ | ⟨_, _, e⟩
  · exact Bool.noConfusion (hb.symm.trans hb')
  · cases hk.symm.trans h
  · exact e

theorem exec_of_refused {s : State} {o : Op} {k : Status} (hb : s.busy = false) (h : s.refusal o = some k) :
    exec o.toInstr s = .next (refusedWith s o k) := by
  rw [exec_operation, State.request_of_refused hb h]

theorem exec_of_admitted {s : State} {o : Op} (hb : s.busy = false) (h : s.refusal o = none) :
    exec o.toInstr s = .next (startOf o { s with op := o, busy := true }) := by
  rw [exec_operation, State.request_of_admitted hb h]

/-- In `Ready`, past the gate and with good operands an operation starts (R181). -/
theorem exec_of_ready {s : State} {o : Op} (hb : s.busy = false) (hr : s.session = .ready) (hg : s.PassesGate o)
    (hc : s.operandCheck o = none) (ho : o ≠ .handshake := by simp) :
    exec o.toInstr s = .next (startOf o { s with op := o, busy := true }) :=
  exec_of_admitted hb (by rw [State.refusal_past_gate ho hg, if_pos hr, hc])

/-! ### The end of a handshake (R172, R178) -/

theorem engineStep_commit {s : State} (hp : s.phase = .hsCommit) : engineStep s = .next s.commit := by
  rw [engineStep, State.fetch, hp]

/-- Settles O39: `commit` takes the tail of `get_buf`. -/
theorem commitLeavesOutTheVersionByte : Obligations.CommitLeavesOutTheVersionByte := by
  intro s v ops hp hg
  rw [engineStep_commit hp, State.commit, hg]
  rfl

/-! ### The requests (R171 row 1, R179, R181) -/

/-- Settles O18: membership in `cmd_set` by its positions, the refusal by the gate, and the set of the commit. -/
theorem gatedOperationsRefusedUnsupported : Obligations.GatedOperationsRefusedUnsupported := by
  refine ⟨fun s x => ?_, fun s o x hx hb hmem => ?_, fun s v ops hp hg => ?_⟩
  · rw [State.inSet_iff, List.mem_iff_getElem?]
    exact exists_congr fun i => ⟨fun e => ⟨(List.getElem?_eq_some_iff.mp e).1, e⟩, And.right⟩
  · exact exec_of_refused hb (by rw [State.refusal_eq_gated hx, State.gated_of_not_mem hmem])
  · refine ⟨s.commit, engineStep_commit hp, fun x => ?_⟩
    rw [State.inSet_iff, State.commit_cmdSet, hg, List.tail_cons]

/-- Settles O19: past the gate `refusal` tests the session state, then the operands. -/
theorem refusalOrderStateThenOperands : Obligations.RefusalOrderStateThenOperands := by
  intro s o hb hg
  refine ⟨fun ho hs => ?_, fun hs hout => ?_, fun hs ho he => ?_⟩
  · exact exec_of_refused hb (by rw [State.refusal_past_gate ho hg, if_neg hs])
  · have ho : o ≠ .handshake := by rintro rfl; exact hout
    exact exec_of_refused hb
      (by rw [State.refusal_past_gate ho hg, if_pos hs, State.operandCheck_of_outOfRange hout])
  · subst ho
    exact exec_of_refused hb (by rw [State.refusal_past_gate (by simp) hg, if_pos hs]; simp [State.operandCheck, he])

/-- Settles O20: no test refuses a `HANDSHAKE`. -/
theorem handshakeStartsANewSession : Obligations.HandshakeStartsANewSession :=
  fun _ hb => exec_of_admitted (o := .handshake) hb rfl

/-- Settles O21: each operation is past its gate, in `Ready`, with good operands. -/
theorem admittedRequestsStart : Obligations.AdmittedRequestsStart := by
  intro s hb hr
  refine ⟨?get, ?upload, fun hm h1 hmax => ?read, fun hm h1 hmax => ?write, fun hm h1 hmax => ?erase,
    fun hm => ⟨?go, fun he => ?goEntry⟩⟩
  case get => exact exec_of_ready (o := .get) hb hr (State.passesGate_of_ungated rfl) rfl
  case upload => exact exec_of_ready (o := .upload) hb hr (State.passesGate_of_ungated rfl) rfl
  case read => exact exec_of_ready (o := .read) hb hr (State.passesGate_of_mem rfl hm) (rangeCheck_of_in h1 hmax)
  case write => exact exec_of_ready (o := .write) hb hr (State.passesGate_of_mem rfl hm) (rangeCheck_of_in h1 hmax)
  case erase => exact exec_of_ready (o := .erase) hb hr (State.passesGate_of_mem rfl hm) (rangeCheck_of_in h1 hmax)
  case go => exact exec_of_ready (o := .go) hb hr (State.passesGate_of_mem rfl hm) rfl
  case goEntry =>
    exact exec_of_ready (o := .goEntry) hb hr (State.passesGate_of_mem rfl hm)
      (if_pos (Option.isSome_iff_ne_none.mpr he))

end Sys2Proof.Machine
end

section
/-! The transition table of the session (41_session.md R171): what each action of the engine does to `session_state` and
`cmd_set`, and which moves write them. -/

namespace Sys2Proof.Machine

/-! ### What an action does to the session -/

/-- From `s` to `t` neither the session state nor `cmd_set` is written. -/
structure KeepsSession (s t : State) : Prop where
  session : t.session = s.session
  cmdSet : t.cmdSet = s.cmdSet

/-- From `s` to `t` an operation fails with a channel kind (R171 rows 3 and 4, R305). -/
structure ChannelFault (s t : State) : Prop where
  session : t.session = .faulted
  cmdSet : t.cmdSet = s.cmdSet
  status : t.status ∈ [.transportError, .protocolNack, .protocolTimeout, .bufferTooSmall]
  busy : t.busy = false

/-- A new session has started (R171 row 1). -/
structure NewSession (t : State) : Prop where
  op : t.op = .handshake
  busy : t.busy = true
  session : t.session = .uninitialized
  cmdSet : t.cmdSet = []
  base : t.baseAddress = 0
  entry : t.entry = none

theorem KeepsSession.trans {s u t : State} (hu : KeepsSession s u) (ht : KeepsSession u t) : KeepsSession s t :=
  ⟨ht.session.trans hu.session, ht.cmdSet.trans hu.cmdSet⟩

theorem KeepsSession.rx (s : State) (n t : Nat) : KeepsSession s (s.rx n t) := ⟨s.rx_session n t, s.rx_cmdSet n t⟩

theorem KeepsSession.tx (s : State) (f : List Byte) : KeepsSession s (s.tx f) := ⟨s.tx_session f, s.tx_cmdSet f⟩

/-- A kind outside the four channel kinds leaves the session as it is (R305, R307). -/
theorem KeepsSession.fail (s : State) {k : Status} (h : k.faults = false) : KeepsSession s (s.fail k) :=
  ⟨by rw [State.fail_session, h]; rfl, rfl⟩

theorem Status.mem_of_faults {k : Status} (h : k.faults = true) :
    k ∈ [.transportError, .protocolNack, .protocolTimeout, .bufferTooSmall] := by
  cases k <;> simp_all [Status.faults]

theorem ChannelFault.stageFails {s u : State} (hu : KeepsSession s u) {k : Status} (h : k.faults = true) :
    ChannelFault s (u.stageFails k) where
  session := by rw [State.stageFails_session, h]; rfl
  cmdSet := hu.cmdSet
  status := Status.mem_of_faults h
  busy := rfl

theorem KeepsSession.nextChunk (s : State) : KeepsSession s s.nextChunk := by
  rcases s.nextChunk_cases with ⟨_, _, _, e⟩ | ⟨⟨k, rfl | rfl, e⟩, _⟩ | ⟨_, e⟩ <;> rw [e] <;> exact ⟨rfl, rfl⟩

theorem KeepsSession.writeDone (s : State) : KeepsSession s s.writeDone := by
  unfold State.writeDone
  split
  · have hk := KeepsSession.nextChunk { s with chunkOff := s.chunkOff + s.chunkBytes.length }
    exact ⟨hk.session, hk.cmdSet⟩
  · exact ⟨rfl, rfl⟩

theorem KeepsSession.getDone (s : State) : KeepsSession s s.getDone := by
  unfold State.getDone; split <;> exact ⟨rfl, rfl⟩

theorem KeepsSession.drainOnce (s : State) : KeepsSession s s.drainOnce := by
  have hrx := KeepsSession.rx s 1 s.cfg.tDrain
  rcases s.drainOnce_cases with e | e <;> rw [e] <;> exact hrx.trans ⟨rfl, rfl⟩

theorem KeepsSession.rdData {s t : State} {d : List Byte} (h : exec (.rdData d) s = .next t) : KeepsSession s t := by
  rcases rdData_cases h with rfl | rfl <;> exact ⟨rfl, rfl⟩

theorem KeepsSession.nextLine (s : State) : KeepsSession s s.nextLine := by
  unfold State.nextLine; split <;> exact ⟨rfl, rfl⟩

theorem parseStatus_faults (e : Reject) : (parseStatus e).faults = false := by cases e <;> rfl

/-- A line that does not parse does not fault the session (R280). -/
theorem KeepsSession.parseLine (s : State) : KeepsSession s s.parseLine := by
  unfold State.parseLine
  split
  · exact ⟨rfl, rfl⟩
  · exact ⟨(KeepsSession.fail _ (parseStatus_faults _)).session, rfl⟩

theorem KeepsSession.record {s t : State} {r : Record} {i : Instr} (hr : r.toInstr = some i)
    (h : exec i s = .next t) : KeepsSession s t := by
  rcases record_cases hr h with ⟨_, rfl⟩ | ⟨_, rfl⟩ | ⟨_, _, _, _, rfl⟩ | ⟨_, _, _, _, _, _, rfl⟩
  · have hk := KeepsSession.nextChunk
      { s with recValid := true, record := Record.make r.addr 0x00 r.data, chunkOff := 0 }
    exact ⟨hk.session, hk.cmdSet⟩
  · exact ⟨rfl, rfl⟩
  · exact ⟨State.endDispatch_session _, State.endDispatch_cmdSet _⟩
  · exact ⟨State.endDispatch_session _, State.endDispatch_cmdSet _⟩

/-- Of the acknowledgements only that of a jump address moves the session (R204). -/
theorem State.acknowledged_session_cases (s : State) :
    KeepsSession s s.acknowledged ∨ (s.phase = .goAddr .await ∧ s.acknowledged = s.relinquish) := by
  unfold State.acknowledged
  split
  case h_8 => exact .inl (.writeDone s) -- the ACK of a payload
  case h_12 hp => exact .inr ⟨hp, rfl⟩ -- of a jump address
  all_goals exact .inl ⟨rfl, rfl⟩

theorem State.sendFrame_session_cases (s : State) (f : List Byte) :
    KeepsSession s (s.sendFrame f) ∨ ChannelFault s (s.sendFrame f) := by
  rcases s.sendFrame_cases f with ⟨_, e⟩ | ⟨_, e⟩ <;> rw [e]
  · exact .inl ((KeepsSession.tx s f).trans ⟨rfl, rfl⟩)
  · exact .inr (.stageFails (.tx s f) rfl)

theorem State.getLengthByte_session_cases {s u : State} (hu : KeepsSession s u) (n : Byte) :
    KeepsSession s (u.getLengthByte n) ∨ ChannelFault s (u.getLengthByte n) := by
  rcases u.getLengthByte_cases n with ⟨_, e⟩ | ⟨_, e⟩ <;> rw [e]
  · exact .inr (.stageFails hu rfl)
  · exact .inl (hu.trans ⟨rfl, rfl⟩)

theorem getRsp_session_cases {s u t : State} {v : Byte} {ops : List Byte} (hu : KeepsSession s u)
    (h : exec (.getRsp v ops) u = .next t) : KeepsSession s t ∨ ChannelFault s t := by
  rcases getRsp_cases h with rfl | rfl | rfl
  · exact .inl hu
  · exact .inr (.stageFails hu rfl)
  · have hk := KeepsSession.getDone { u with getBuf := v :: ops }
    exact .inl (hu.trans ⟨hk.session, hk.cmdSet⟩)

/-- A request starts a new session, or leaves the session as it is (R171 row 1, R200). -/
theorem State.request_session_cases (s : State) (o : Op) :
    KeepsSession s (s.request o (startOf o)) ∨ (s.busy = false ∧ NewSession (s.request o (startOf o))) := by
  rcases s.request_cases o (startOf o) with ⟨_, e⟩ | ⟨_, k, hk, e⟩ | ⟨hb, _, e⟩ <;> rw [e]
  · exact .inl ⟨rfl, rfl⟩
  · exact .inl ⟨(KeepsSession.fail _ (State.faults_of_refusal hk)).session, rfl⟩
  · cases o with
    | handshake => exact .inr ⟨hb, rfl, rfl, rfl, rfl, rfl, rfl⟩
    | get | read | write | erase | go | goEntry | upload => exact .inl ⟨rfl, rfl⟩

/-! ### The moves of the engine -/

/-- Inside an operation only three moves write the session state or `cmd_set`: the commit of a handshake, the failure with
a channel kind, and the last ACK of a jump. -/
theorem EngineMove.session_cases {s t : State} (m : EngineMove s t) (hb : s.busy = true) :
    KeepsSession s t ∨ ChannelFault s t ∨ (s.phase = .hsCommit ∧ t = s.commit) ∨
    (s.phase = .goAddr .await ∧ t = (s.rx 1 s.ackTimeout).relinquish) := by
  cases m with
  | wait | stripLine => exact .inl ⟨rfl, rfl⟩
  | request _ hf => exact Bool.noConfusion (hf.symm.trans hb)
  | send => exact (s.sendFrame_session_cases _).imp_right .inl
  | acked =>
    rcases (s.rx 1 s.ackTimeout).acknowledged_session_cases with hk | ⟨hp, e⟩
    · exact .inl ((KeepsSession.rx s _ _).trans hk)
    · exact .inr (.inr (.inr ⟨by rw [← hp, State.rx_phase], e⟩))
  | nacked | silent | broken => exact .inr (.inl (.stageFails (.rx s _ _) rfl))
  | drain => exact .inl (.drainOnce s)
  | getLen => exact (State.getLengthByte_session_cases (.rx s _ _) _).imp_right .inl
  | getList _ _ _ he => exact (getRsp_session_cases (.rx s _ _) he).imp_right .inl
  | readData _ _ _ he => exact .inl ((KeepsSession.rx s _ _).trans (.rdData he))
  | commit hp => exact .inr (.inr (.inl ⟨hp, rfl⟩))
  | nextLine => exact .inl (.nextLine s)
  | parseLine => exact .inl (.parseLine s)
  | dispatch _ _ hi he => exact .inl (.record hi he)

/-- Every running operation is in `Uninitialized` or `Ready` (R170). -/
theorem EngineInv.session_of_busy {s : State} (h : EngineInv s) (hb : s.busy = true) :
    s.session = .uninitialized ∨ s.session = .ready := by
  by_cases ho : s.op = .handshake
  · exact .inl (h.handshakeSession hb ho)
  · exact .inr (h.otherSession hb ho)

theorem EngineInv.session_of_commit {s : State} (h : EngineInv s) (hp : s.phase = .hsCommit) :
    s.session = .uninitialized := by
  obtain ⟨ho, _⟩ : s.op = .handshake ∧ s.getBuf ≠ [] := by simpa only [PhaseOk, hp] using h.phaseOk
  exact h.handshakeSession (h.busy_of_phase (by simp [hp])) ho

theorem EngineInv.session_of_jump {s : State} (h : EngineInv s) (hp : s.phase = .goAddr .await) :
    s.session = .ready := by
  obtain ⟨_, ho⟩ : Config.opGo ∈ s.cmdSet ∧ (s.op = .go ∨ (s.op = .goEntry ∧ s.entry ≠ none)) := by
    simpa only [PhaseOk, hp] using h.phaseOk
  refine h.otherSession (h.busy_of_phase (by simp [hp])) ?_
  rcases ho with ho | ⟨ho, _⟩ <;> simp [ho]

theorem KeepsSession.not_moved {s t : State} (h : KeepsSession s t) :
    ¬ (t.session ≠ s.session ∨ t.cmdSet ≠ s.cmdSet) := by
  simp [h.session, h.cmdSet]

/-- Settles O52: an idle engine moves the session by a request only, and a busy one by three moves, each in a phase whose
session the invariant knows. -/
theorem sessionMovesAsTheTableSays : Obligations.SessionMovesAsTheTableSays := by
  intro s t h hn hst hmoved
  obtain ⟨e, _, hes⟩ := engineStep_of_step hn hst
  have m := engineStep_move hes
  by_cases hp : s.phase = .idle
  · rcases m.idle_cases hp with rfl | ⟨r, rest, rfl⟩
    · exact absurd hmoved (KeepsSession.not_moved ⟨rfl, rfl⟩)
    · rcases (State.latch { s with env := e } r rest).request_session_cases (opOfCode r.op) with hk | ⟨hb, hnew⟩
      · exact absurd hmoved (KeepsSession.not_moved ⟨hk.session, hk.cmdSet⟩)
      · exact .inl ⟨hb, hnew.op, hnew.busy, hnew.session, hnew.cmdSet, hnew.base, hnew.entry⟩
  · have hb : s.busy = true := h.busy_of_phase hp
    rcases m.session_cases hb with hk | hf | ⟨hc, rfl⟩ | ⟨hg, rfl⟩
    · exact absurd hmoved (KeepsSession.not_moved ⟨hk.session, hk.cmdSet⟩)
    · exact .inr (.inr (.inl ⟨h.session_of_busy hb, hf.session, hf.cmdSet, hf.status, hf.busy⟩))
    · exact .inr (.inl ⟨h.session_of_commit hc, hc, rfl, rfl, rfl, rfl⟩)
    · refine .inr (.inr (.inr ⟨h.session_of_jump hg, hg, rfl, ?_, rfl, rfl⟩))
      rw [State.relinquish_cmdSet, State.rx_cmdSet]

end Sys2Proof.Machine
end

section
/-! The Get exchange of a session (41_session.md R176, R177) and the frames of the sending phases: which frame each
sending phase executes, and what the engine does with the length byte, the list, and the data it receives. -/

namespace Sys2Proof.Machine

/-! ### The frame of a sending phase (R75, R172, R176, R201 to R205, R273, R274) -/

theorem Sends.engineStep_eq_exec {s : State} {i : Instr} (h : Sends s i) : Machine.engineStep s = exec i s :=
  engineStep_of_run h.fetch

theorem State.writeOperands_of_upload {s : State} (h : s.op = .upload) :
    s.writeOperands = (recordAddress s.baseAddress s.record.addr s.chunkOff, s.chunkBytes) := if_pos h

theorem State.writeOperands_of_not_upload {s : State} (h : s.op ≠ .upload) :
    s.writeOperands = (s.args.addr, s.args.bytes) := if_neg h

theorem State.goOperand_of_goEntry {s : State} (h : s.op = .goEntry) : s.goOperand = s.entry := if_pos h

theorem State.goOperand_of_not_goEntry {s : State} (h : s.op ≠ .goEntry) : s.goOperand = some s.args.addr := if_neg h

/-- Settles O33: the frame of each sending phase, its operands by the operation. -/
theorem stepSendsTheFrameOfThePhase : Obligations.StepSendsTheFrameOfThePhase := by
  intro s
  have writeAddr (hp : s.phase = .wrAddr .send) := (Sends.writeAddr hp).engineStep_eq_exec
  have writePay (hp : s.phase = .wrPay .send) := (Sends.writePay hp).engineStep_eq_exec
  refine ⟨fun hp => (Sends.sync hp).engineStep_eq_exec, fun hp => (Sends.cmdGet hp).engineStep_eq_exec,
    fun hp => (Sends.cmdRead hp).engineStep_eq_exec, fun hp => (Sends.cmdWrite hp).engineStep_eq_exec,
    fun hp => (Sends.cmdErase hp).engineStep_eq_exec, fun hp => (Sends.cmdGo hp).engineStep_eq_exec,
    fun hp => (Sends.readAddr hp).engineStep_eq_exec, fun hp ho => ?_, fun hp ho => ?_, fun hp ho => ?_,
    fun hp ho => ?_, fun hp => (Sends.erasePay hp).engineStep_eq_exec,
    fun hp ho => (Sends.goAddr hp (State.goOperand_of_not_goEntry ho)).engineStep_eq_exec,
    fun a hp ho he => (Sends.goAddr hp ((State.goOperand_of_goEntry ho).trans he)).engineStep_eq_exec⟩
  · rw [writeAddr hp, State.writeOperands_of_not_upload ho]
  · rw [writePay hp, State.writeOperands_of_not_upload ho]; rfl
  · rw [writeAddr hp, State.writeOperands_of_upload ho]
  · rw [writePay hp, State.writeOperands_of_upload ho]; rfl

/-! ### The length byte of Get (R177) -/

theorem State.getLengthByte_of_overflow {s : State} {n : Byte} (h : s.cfg.getBufCap < n.toNat + 1) :
    s.getLengthByte n = faultedWith s .bufferTooSmall :=
  (if_pos h).trans (s.stageFails_eq rfl)

theorem State.getLengthByte_of_fits {s : State} {n : Byte} (h : n.toNat + 1 ≤ s.cfg.getBufCap) :
    s.getLengthByte n = { s with phase := .getList n } := if_neg (Nat.not_lt.mpr h)

/-- Settles O36: the step of `GET_LEN` is the capacity test of the byte received. -/
theorem getLengthByteMeetsTheCapacity : Obligations.GetLengthByteMeetsTheCapacity := by
  intro s n hp hx
  rw [engineStep_getLen hp hx, ← State.rx_cfg s 1 s.cfg.tData]
  exact ⟨fun h => congrArg _ (State.getLengthByte_of_overflow h), fun h => congrArg _ (State.getLengthByte_of_fits h)⟩

/-! ### The bytes of Get and of a read (R176, R201) -/

theorem exec_getRsp_of_overflow {s : State} {n : Byte} (hp : s.phase = .getList n) (v : Byte) {ops : List Byte}
    (h : s.cfg.getBufCap < ops.length + 1) : exec (.getRsp v ops) s = .next (faultedWith s .bufferTooSmall) := by
  rw [← s.stageFails_eq (k := .bufferTooSmall) rfl]
  simp only [exec, execGetRsp, hp, if_pos h]

theorem exec_getRsp_of_fits {s : State} {n : Byte} (hp : s.phase = .getList n) (v : Byte) {ops : List Byte}
    (h : ops.length + 1 ≤ s.cfg.getBufCap) :
    exec (.getRsp v ops) s = .next ({ s with getBuf := v :: ops } : State).getDone := by
  simp only [exec, execGetRsp, hp, if_neg (Nat.not_lt.mpr h)]

theorem State.getDone_of_handshake {s : State} (h : s.op = .handshake) : s.getDone = { s with phase := .hsCommit } :=
  if_pos h

theorem State.getDone_of_not_handshake {s : State} (h : s.op ≠ .handshake) : s.getDone = s.done := if_neg h

theorem exec_rdData_of_phase {s : State} (hp : s.phase = .rdData) (d : List Byte) :
    exec (.rdData d) s = .next ({ s with rdBuf := d } : State).done := by
  simp only [exec, execRdData, hp]

/-- Settles O27: the list by the capacity and the operation, the data of a read as they come. -/
theorem receivedBytesFillTheBuffers : Obligations.ReceivedBytesFillTheBuffers := by
  intro s n v ops d
  refine ⟨fun hp hfit => ?_, fun hp => exec_getRsp_of_overflow hp v, fun hp => exec_rdData_of_phase hp d⟩
  rw [exec_getRsp_of_fits hp v hfit]
  exact ⟨fun ho => congrArg _ (State.getDone_of_handshake (s := { s with getBuf := v :: ops }) ho),
    fun ho => congrArg _ (State.getDone_of_not_handshake (s := { s with getBuf := v :: ops }) ho)⟩

end Sys2Proof.Machine
end

section
/-! Runs against a target that answers: a scripted channel call, the drain, one acknowledged stage, the Get exchange, and
the whole of `HANDSHAKE` and `GET` (41_session.md R172 to R180). -/

namespace Sys2Proof.Machine

/-! ### Runs -/

theorem runs_one {s t : State} (h : step s = .next t) : Runs 1 s t := runs_succ h (runs_zero t)

/-- A run of more than one step is a step and a run. -/
theorem Runs.succ_inv {k : Nat} {s t : State} (h : Runs (k + 1) s t) : ∃ u, step s = .next u ∧ Runs k u t := by
  simp only [Runs, Host.Core.run] at h
  split at h
  · exact ⟨_, ‹_›, h⟩
  · cases h
  · cases h

theorem Runs.append {k m : Nat} {s u t : State} (h : Runs k s u) (h2 : Runs m u t) : Runs (k + m) s t := by
  induction k generalizing s with
  | zero =>
    obtain rfl := Host.Outcome.next.inj h
    rwa [Nat.zero_add]
  | succ k ih =>
    obtain ⟨v, hv, hrest⟩ := h.succ_inv
    rw [Nat.add_right_comm]
    exact runs_succ hv (ih hrest)

theorem step_of_no_reset {s : State} (h : s.env.resetLine = []) : step s = engineStep s := by
  simp [step, h]

/-! ### Scripted calls of the channel (R141, R142) -/

/-- `s` in phase `p` after the channel calls `calls`, with `b` in `tx_buf`, and `txs` and `rxs` left of the scripts. -/
def State.afterCalls (s : State) (p : Phase) (b : List Byte) (txs : List TxReply) (rxs : List RxEvent)
    (calls : List ChanCall) : State :=
  { s with
    phase := p, txBuf := b
    env := { s.env with txReplies := txs, rxEvents := rxs, trace := s.env.trace ++ calls } }

theorem State.afterCalls_afterCalls (s : State) (p q : Phase) (a b : List Byte) (txs txs' : List TxReply)
    (rxs rxs' : List RxEvent) (c c' : List ChanCall) :
    (s.afterCalls p a txs rxs c).afterCalls q b txs' rxs' c' = s.afterCalls q b txs' rxs' (c ++ c') := by
  simp [State.afterCalls]

theorem State.nextRxReply_of_bytes {s : State} {b : List Byte} {rxs : List RxEvent} {n : Nat}
    (h : s.env.rxEvents = .bytes b :: rxs) (hn : b.length = n) : s.nextRxReply n = .ok b := by
  subst hn
  simp [State.nextRxReply, h, RxEvent.reply]

theorem State.rx_of_bytes {s : State} {b : List Byte} {rxs : List RxEvent} {n : Nat}
    (h : s.env.rxEvents = .bytes b :: rxs) (hn : b.length = n) (t : Nat) :
    s.rx n t = s.afterCalls s.phase s.txBuf s.env.txReplies rxs [.rx n t (.ok b)] := by
  subst hn
  simp [State.rx, State.afterRxReply, State.nextRxReply_of_bytes h rfl, h, RxEvent.left, State.afterCalls]

theorem State.rx_of_timeout {s : State} {rxs : List RxEvent} (h : s.env.rxEvents = .timeout :: rxs) (n t : Nat) :
    s.rx n t = s.afterCalls s.phase s.txBuf s.env.txReplies rxs [.rx n t .timeout] := by
  simp [State.rx, State.afterRxReply, State.nextRxReply, h, RxEvent.left, RxEvent.reply, State.afterCalls]

theorem State.sendFrame_of_script {s : State} {txs : List TxReply} (h : s.env.txReplies = .ok :: txs)
    (f : List Byte) :
    s.sendFrame f = s.afterCalls s.phase.sent f txs s.env.rxEvents [.tx f s.cfg.tTx .ok] := by
  simp [State.sendFrame, State.tx, State.afterTxReply, State.nextTxReply, h, State.afterCalls]

/-! ### The drain (R173) -/

theorem State.drainOnce_of_ok {s : State} {b : List Byte} (h : s.nextRxReply 1 = .ok b) :
    s.drainOnce = s.rx 1 s.cfg.tDrain := by
  rw [State.drainOnce, h]

theorem State.drainOnce_of_failure {s : State} (h : s.nextRxReply 1 = .timeout ∨ s.nextRxReply 1 = .error) :
    s.drainOnce = { s.rx 1 s.cfg.tDrain with phase := .hsSyncTx } := by
  rcases h with h | h <;> rw [State.drainOnce, h]

theorem step_drain_byte {s : State} {b : Byte} {rxs : List RxEvent} (hp : s.phase = .hsDrain)
    (hr : s.env.resetLine = []) (h : s.env.rxEvents = .bytes [b] :: rxs) :
    step s = .next (s.afterCalls s.phase s.txBuf s.env.txReplies rxs [.rx 1 s.cfg.tDrain (.ok [b])]) := by
  rw [step_of_no_reset hr, engineStep_drain hp, State.drainOnce_of_ok (State.nextRxReply_of_bytes h rfl),
    State.rx_of_bytes (n := 1) h rfl]

theorem step_drain_timeout {s : State} {rxs : List RxEvent} (hp : s.phase = .hsDrain) (hr : s.env.resetLine = [])
    (h : s.env.rxEvents = .timeout :: rxs) :
    step s = .next (s.afterCalls .hsSyncTx s.txBuf s.env.txReplies rxs [.rx 1 s.cfg.tDrain .timeout]) := by
  have hx : s.nextRxReply 1 = .timeout := by rw [State.nextRxReply, h]; rfl
  rw [step_of_no_reset hr, engineStep_drain hp, State.drainOnce_of_failure (.inl hx), State.rx_of_timeout h]
  rfl

/-- The channel calls of a drain that discards `stale`, one byte at a time. -/
def discardCalls (cfg : Params) (stale : List Byte) : List ChanCall :=
  stale.map fun b => .rx 1 cfg.tDrain (.ok [b])

/-- A channel that delivers bytes one at a time keeps the engine draining. -/
theorem runs_drain {s : State} (hp : s.phase = .hsDrain) (hr : s.env.resetLine = []) (stale : List Byte)
    {rxs : List RxEvent} (h : s.env.rxEvents = stale.map (fun b => .bytes [b]) ++ rxs) :
    Runs stale.length s (s.afterCalls s.phase s.txBuf s.env.txReplies rxs (discardCalls s.cfg stale)) := by
  induction stale generalizing s with
  | nil =>
    obtain rfl : s.env.rxEvents = rxs := h
    have hs : s.afterCalls s.phase s.txBuf s.env.txReplies s.env.rxEvents (discardCalls s.cfg []) = s := by
      simp [State.afterCalls, discardCalls]
    exact hs.symm ▸ runs_zero s
  | cons b stale ih =>
    have hrest := ih (s := s.afterCalls s.phase s.txBuf s.env.txReplies (stale.map (fun b => .bytes [b]) ++ rxs)
      [.rx 1 s.cfg.tDrain (.ok [b])]) hp hr rfl
    rw [State.afterCalls_afterCalls] at hrest
    exact runs_succ (step_drain_byte hp hr h) hrest

/-- The whole drain: the stale bytes one at a time, then the silence that ends it. -/
theorem runs_drain_out {s : State} (hp : s.phase = .hsDrain) (hr : s.env.resetLine = []) (stale : List Byte)
    {rxs : List RxEvent} (h : s.env.rxEvents = stale.map (fun b => .bytes [b]) ++ .timeout :: rxs) :
    Runs (stale.length + 1) s (s.afterCalls .hsSyncTx s.txBuf s.env.txReplies rxs
      (discardCalls s.cfg stale ++ [.rx 1 s.cfg.tDrain .timeout])) := by
  have hlast := step_drain_timeout (s := s.afterCalls s.phase s.txBuf s.env.txReplies (.timeout :: rxs)
    (discardCalls s.cfg stale)) hp hr rfl
  rw [State.afterCalls_afterCalls] at hlast
  exact (runs_drain hp hr stale h).append (runs_one hlast)

/-- Settles O35: one turn by the outcome of its receive, and `k` turns while bytes come. -/
theorem drainDiscardsUntilAReceiveFails : Obligations.DrainDiscardsUntilAReceiveFails := by
  intro s hp
  refine ⟨fun b hb => ?_, fun hf => ?_, sameButForTheCall_rx s 1 s.cfg.tDrain, fun b k hr hk => ?_⟩
  · rw [engineStep_drain hp, State.drainOnce_of_ok hb]
  · rw [engineStep_drain hp, State.drainOnce_of_failure hf]
  · have hrun := runs_drain hp hr (List.replicate k b) (rxs := []) (by simp [hk])
    rw [List.length_replicate] at hrun
    exact ⟨_, hrun, hp, rfl⟩

/-! ### One acknowledged stage (R144, R146) -/

theorem step_response {s : State} {x : Byte} {rxs : List RxEvent} (hp : s.phase.awaitsAck = true)
    (hr : s.env.resetLine = []) (h : s.env.rxEvents = .bytes [x] :: rxs) :
    step s = exec (decodeResponse x)
      (s.afterCalls s.phase s.txBuf s.env.txReplies rxs [.rx 1 s.ackTimeout (.ok [x])]) := by
  rw [step_of_no_reset hr, engineStep_response hp (State.nextRxReply_of_bytes h rfl), State.rx_of_bytes (n := 1) h rfl]

theorem Sends.sent_awaitsAck {s : State} {i : Instr} (h : Sends s i) : s.phase.sent.awaitsAck = true := by
  cases h <;> simp_all [Phase.sent, Phase.awaitsAck]

/-- The timeout of the acknowledge of the frame that the phase sends (R151). -/
def State.stageTimeout (s : State) : Nat := ({ s with phase := s.phase.sent } : State).ackTimeout

/-- A stage against a channel that takes the frame and delivers an ACK: two steps, and the engine acts on the ACK. -/
theorem Sends.runs_stage {s : State} {i : Instr} (h : Sends s i) (hr : s.env.resetLine = [])
    {txs : List TxReply} {rxs : List RxEvent} (htx : s.env.txReplies = .ok :: txs)
    (hrx : s.env.rxEvents = .bytes [Config.ack] :: rxs) :
    Runs 2 s (s.afterCalls s.phase.sent (encode s.cfg i) txs rxs
      (stageCalls s.cfg (encode s.cfg i) s.stageTimeout)).acknowledged := by
  have hsend := (step_of_no_reset hr).trans h.engineStep
  rw [State.sendFrame_of_script htx] at hsend
  have hack := step_response (s := s.afterCalls s.phase.sent (encode s.cfg i) txs s.env.rxEvents
    [.tx (encode s.cfg i) s.cfg.tTx .ok]) h.sent_awaitsAck hr hrx
  rw [State.afterCalls_afterCalls] at hack
  exact runs_succ hsend (runs_one hack)

/-! ### The stages of a handshake and of Get (R172, R174, R176) -/

theorem State.acknowledged_of_syncAck {s : State} (hp : s.phase = .hsSyncAck) : s.acknowledged = s.beginGet := by
  simp only [State.acknowledged, hp]

theorem State.acknowledged_of_getCmd {s : State} (hp : s.phase = .getCmd .await) :
    s.acknowledged = { s with phase := .getLen } := by
  simp only [State.acknowledged, hp]

theorem encode_sync (cfg : Params) : encode cfg .sync = [0x7F] := rfl

theorem encode_cmdGet (cfg : Params) : encode cfg .cmdGet = [cfg.opGet, cfg.opGet ^^^ 0xFF] := rfl

/-- `SYNC` against a target that acknowledges: two steps, and Get comes next with `get_buf` empty. -/
theorem runs_sync {s : State} (hp : s.phase = .hsSyncTx) (hr : s.env.resetLine = []) {txs : List TxReply}
    {rxs : List RxEvent} (htx : s.env.txReplies = .ok :: txs)
    (hrx : s.env.rxEvents = .bytes [Config.ack] :: rxs) :
    Runs 2 s (({ s with getBuf := [] } : State).afterCalls (.getCmd .send) (encode s.cfg .sync) txs rxs
      (stageCalls s.cfg (encode s.cfg .sync) s.cfg.tSync)) := by
  have hstage := (Sends.sync hp).runs_stage hr htx hrx
  have ht : s.stageTimeout = s.cfg.tSync := by rw [State.stageTimeout, hp]; rfl
  rw [hp, ht, State.acknowledged_of_syncAck rfl] at hstage
  exact hstage

/-- The command of Get against a target that acknowledges: two steps, and the length byte comes next. -/
theorem runs_getCmd {s : State} (hp : s.phase = .getCmd .send) (hr : s.env.resetLine = []) {txs : List TxReply}
    {rxs : List RxEvent} (htx : s.env.txReplies = .ok :: txs)
    (hrx : s.env.rxEvents = .bytes [Config.ack] :: rxs) :
    Runs 2 s (s.afterCalls .getLen (encode s.cfg .cmdGet) txs rxs
      (stageCalls s.cfg (encode s.cfg .cmdGet) s.cfg.tAck)) := by
  have hstage := (Sends.cmdGet hp).runs_stage hr htx hrx
  have ht : s.stageTimeout = s.cfg.tAck := by rw [State.stageTimeout, hp]; rfl
  rw [hp, ht, State.acknowledged_of_getCmd rfl] at hstage
  exact hstage

theorem step_getLen {s : State} {n : Byte} {rxs : List RxEvent} (hp : s.phase = .getLen)
    (hr : s.env.resetLine = []) (h : s.env.rxEvents = .bytes [n] :: rxs) (hfit : n.toNat + 1 ≤ s.cfg.getBufCap) :
    step s = .next (s.afterCalls (.getList n) s.txBuf s.env.txReplies rxs [.rx 1 s.cfg.tData (.ok [n])]) := by
  rw [step_of_no_reset hr, engineStep_getLen hp (State.nextRxReply_of_bytes h rfl), State.rx_of_bytes (n := 1) h rfl]
  exact congrArg _ (State.getLengthByte_of_fits hfit)

theorem step_getList {s : State} {n v : Byte} {ops : List Byte} {rxs : List RxEvent} (hp : s.phase = .getList n)
    (hr : s.env.resetLine = []) (h : s.env.rxEvents = .bytes (v :: ops) :: rxs) (hn : ops.length = n.toNat)
    (hfit : ops.length + 1 ≤ s.cfg.getBufCap) :
    step s = .next (({ s with getBuf := v :: ops } : State).afterCalls s.phase s.txBuf s.env.txReplies rxs
      [.rx (ops.length + 1) s.cfg.tData (.ok (v :: ops))]).getDone := by
  rw [step_of_no_reset hr, engineStep_getList hp (State.nextRxReply_of_bytes h (by simp [hn])), ← hn,
    State.rx_of_bytes (n := ops.length + 1) h rfl]
  exact exec_getRsp_of_fits (s := s.afterCalls s.phase s.txBuf s.env.txReplies rxs _) hp v hfit

/-- The channel calls that receive the report `v` and `ops` of a Get. -/
def reportCalls (cfg : Params) (v : Byte) (ops : List Byte) : List ChanCall :=
  [.rx 1 cfg.tData (.ok [BitVec.ofNat 8 ops.length]), .rx (ops.length + 1) cfg.tData (.ok (v :: ops))]

/-- The channel calls of Get against a target that reports `v` and `ops`. -/
def getCalls (cfg : Params) (v : Byte) (ops : List Byte) : List ChanCall :=
  stageCalls cfg (encode cfg .cmdGet) cfg.tAck ++ reportCalls cfg v ops

/-- The length byte and the list of a report that fits: two steps, and the operation goes on. -/
theorem runs_report {s : State} {v : Byte} {ops : List Byte} {rxs : List RxEvent} (hp : s.phase = .getLen)
    (hr : s.env.resetLine = []) (hlen : ops.length ≤ 255) (hfit : ops.length + 1 ≤ s.cfg.getBufCap)
    (hrx : s.env.rxEvents = .bytes [BitVec.ofNat 8 ops.length] :: .bytes (v :: ops) :: rxs) :
    Runs 2 s (({ s with getBuf := v :: ops } : State).afterCalls (.getList (BitVec.ofNat 8 ops.length)) s.txBuf
      s.env.txReplies rxs (reportCalls s.cfg v ops)).getDone := by
  have hn : ops.length = (BitVec.ofNat 8 ops.length).toNat := by simp; omega
  have hlist := step_getList (s := s.afterCalls (.getList (BitVec.ofNat 8 ops.length)) s.txBuf s.env.txReplies
    (.bytes (v :: ops) :: rxs) [.rx 1 s.cfg.tData (.ok [BitVec.ofNat 8 ops.length])]) rfl hr rfl hn hfit
  refine runs_succ (step_getLen hp hr hrx (hn ▸ hfit)) (runs_one (hlist.trans ?_))
  simp [State.afterCalls, reportCalls]

/-- Get against a target that acknowledges and reports a list that fits: four steps, and the operation goes on. -/
theorem runs_get {s : State} {v : Byte} {ops : List Byte} {txs : List TxReply} {rxs : List RxEvent}
    (hp : s.phase = .getCmd .send) (hr : s.env.resetLine = []) (hlen : ops.length ≤ 255)
    (hfit : ops.length + 1 ≤ s.cfg.getBufCap) (htx : s.env.txReplies = .ok :: txs)
    (hrx : s.env.rxEvents =
      .bytes [Config.ack] :: .bytes [BitVec.ofNat 8 ops.length] :: .bytes (v :: ops) :: rxs) :
    Runs 4 s (({ s with getBuf := v :: ops } : State).afterCalls (.getList (BitVec.ofNat 8 ops.length))
      (encode s.cfg .cmdGet) txs rxs (getCalls s.cfg v ops)).getDone := by
  have hrun := (runs_getCmd hp hr htx hrx).append (runs_report rfl hr hlen hfit rfl)
  simpa [State.afterCalls, getCalls] using hrun

/-! ### Requests (R21, R181) -/

/-- `s` after the request `r` for `o` was taken from the host and accepted. -/
def State.accepted (s : State) (o : Op) (r : Request) (hs : List Request) : State :=
  { s.latch r hs with op := o, busy := true }

theorem State.latch_of_not_upload {s : State} {r : Request} (h : opOfCode r.op ≠ .upload) (hs : List Request) :
    s.latch r hs = { s with args := r.args, env := { s.env with host := hs } } := by
  simp [State.latch, h]

/-- An idle engine takes the next request; one that is admitted starts. -/
theorem step_admitted {s : State} {r : Request} {hs : List Request} {o : Op} (hb : s.busy = false)
    (hp : s.phase = .idle) (hr : s.env.resetLine = []) (hh : s.env.host = r :: hs) (ho : opOfCode r.op = o)
    (ha : (s.latch r hs).refusal o = none) : step s = .next (startOf o (s.accepted o r hs)) := by
  subst ho
  rw [step_of_no_reset hr, engineStep_request hp hb hh]
  exact exec_of_admitted hb ha

/-! ### `GET` and `HANDSHAKE` (R172, R180) -/

/-- Settles O43: the request, then the Get exchange, whose end is the end of `GET`. -/
theorem getRun : Obligations.GetRun := by
  intro s v ops r hs txs rxs hb hp hready hr hop hh hlen hfit htx hrx
  have ho : opOfCode r.op = .get := by rw [hop]; rfl
  have hlatch := s.latch_of_not_upload (r := r) (by simp [ho]) hs
  have hreq := step_admitted hb hp hr hh ho (by simp [State.refusal, State.readyCheck, hready])
  have hget := runs_get (s := (s.accepted .get r hs).beginGet) rfl hr hlen hfit htx hrx
  rw [State.getDone_of_not_handshake (by simp [State.afterCalls, State.accepted])] at hget
  refine ⟨_, runs_succ hreq hget, ?_, ?_⟩
  · simp [State.done, State.afterCalls, State.beginGet, State.accepted, hlatch, hb, hp]
  · simp [State.done, State.afterCalls, State.beginGet, State.accepted, hlatch, getCalls, reportCalls,
      encode_cmdGet]

/-- The channel calls of a handshake with `stale` in the channel and a target that reports `v` and `ops`. -/
def handshakeCalls (cfg : Params) (stale : List Byte) (v : Byte) (ops : List Byte) : List ChanCall :=
  discardCalls cfg stale ++ [.rx 1 cfg.tDrain .timeout] ++ stageCalls cfg (encode cfg .sync) cfg.tSync ++
    getCalls cfg v ops

/-- From the drain of a handshake to its commit: the stale bytes, the silence, `SYNC`, and the Get exchange. -/
theorem runs_handshake {s : State} {stale : List Byte} {v : Byte} {ops : List Byte} {txs : List TxReply}
    {rxs : List RxEvent} (ho : s.op = .handshake) (hp : s.phase = .hsDrain) (hr : s.env.resetLine = [])
    (hlen : ops.length ≤ 255) (hfit : ops.length + 1 ≤ s.cfg.getBufCap) (htx : s.env.txReplies = .ok :: .ok :: txs)
    (hrx : s.env.rxEvents = stale.map (fun b => .bytes [b]) ++ .timeout :: .bytes [Config.ack] ::
      .bytes [Config.ack] :: .bytes [BitVec.ofNat 8 ops.length] :: .bytes (v :: ops) :: rxs) :
    Runs (stale.length + 7) s (({ s with getBuf := v :: ops } : State).afterCalls .hsCommit (encode s.cfg .cmdGet)
      txs rxs (handshakeCalls s.cfg stale v ops)) := by
  have hsync := (runs_drain_out hp hr stale hrx).append
    (runs_sync (s := s.afterCalls .hsSyncTx s.txBuf s.env.txReplies _ _) rfl hr htx rfl)
  have hget := hsync.append (runs_get (s := State.afterCalls _ (.getCmd .send) _ _ _ _) rfl hr hlen hfit rfl rfl)
  rw [State.getDone_of_handshake (by simp [State.afterCalls, ho])] at hget
  simpa [State.afterCalls, handshakeCalls] using hget

theorem runs_commit {s : State} (hp : s.phase = .hsCommit) (hr : s.env.resetLine = []) : Runs 1 s s.commit :=
  runs_one ((step_of_no_reset hr).trans (engineStep_commit hp))

/-- Settles O42: the request, the way to the commit, and the commit. -/
theorem handshakeRun : Obligations.HandshakeRun := by
  intro s stale v ops r hs txs rxs hb hp hr hop hh hlen hfit htx hrx
  have ho : opOfCode r.op = .handshake := by rw [hop]; rfl
  have hlatch := s.latch_of_not_upload (r := r) (by simp [ho]) hs
  have hreq := step_admitted hb hp hr hh ho rfl
  have hrun := runs_handshake (s := startOf .handshake (s.accepted .handshake r hs)) rfl rfl hr hlen hfit htx
    (hrx.trans (List.append_assoc ..))
  refine ⟨_, runs_succ hreq (hrun.append (runs_commit (s := State.afterCalls _ .hsCommit _ _ _ _) rfl hr)), ?_, ?_⟩
  · simp [State.commit, State.done, State.afterCalls, startOf, State.accepted, hlatch, hb, hp]
  · simp [State.commit, State.done, State.afterCalls, startOf, State.accepted, hlatch, handshakeCalls, discardCalls,
      getCalls, reportCalls, encode_sync, encode_cmdGet]

end Sys2Proof.Machine
end

section
/-! The memory commands of a session against a target that answers (42_memory_commands.md R200 to R206): the stages of each
command's body, and the whole of `READ`, `WRITE`, `ERASE`, `GO` and `GO_ENTRY`. -/

namespace Sys2Proof.Machine

/-! ### A stage that leads to the next (R145, R147, R151) -/

/-- The acknowledge of the frame that phase `p` sends is awaited for `T_ACK` and leads to phase `q`. -/
def Phase.AckedTo (p q : Phase) : Prop :=
  ∀ s : State, ({ s with phase := p.sent } : State).ackTimeout = s.cfg.tAck ∧
    ({ s with phase := p.sent } : State).acknowledged = { s with phase := q }

theorem ackedTo_of_rdCmd : (Phase.rdCmd .send).AckedTo (.rdAddr .send) := fun _ => ⟨rfl, rfl⟩

theorem ackedTo_of_rdAddr : (Phase.rdAddr .send).AckedTo (.rdLen .send) := fun _ => ⟨rfl, rfl⟩

theorem ackedTo_of_rdLen : (Phase.rdLen .send).AckedTo .rdData := fun _ => ⟨rfl, rfl⟩

theorem ackedTo_of_wrCmd : (Phase.wrCmd .send).AckedTo (.wrAddr .send) := fun _ => ⟨rfl, rfl⟩

theorem ackedTo_of_wrAddr : (Phase.wrAddr .send).AckedTo (.wrPay .send) := fun _ => ⟨rfl, rfl⟩

theorem ackedTo_of_erCmd : (Phase.erCmd .send).AckedTo (.erPay .send) := fun _ => ⟨rfl, rfl⟩

theorem ackedTo_of_goCmd : (Phase.goCmd .send).AckedTo (.goAddr .send) := fun _ => ⟨rfl, rfl⟩

/-- A stage that leads on, against a target that acknowledges: two steps, and the phase is the next one. -/
theorem Sends.runs_stage_to {s : State} {i : Instr} {p q : Phase} (h : Sends s i) (hp : s.phase = p)
    (hq : p.AckedTo q) (hr : s.env.resetLine = []) {txs : List TxReply} {rxs : List RxEvent}
    (htx : s.env.txReplies = .ok :: txs) (hrx : s.env.rxEvents = .bytes [Config.ack] :: rxs) :
    Runs 2 s (s.afterCalls q (encode s.cfg i) txs rxs (stageCalls s.cfg (encode s.cfg i) s.cfg.tAck)) := by
  subst hp
  have ht : s.stageTimeout = s.cfg.tAck := (hq s).1
  have hstage := h.runs_stage hr htx hrx
  rw [ht] at hstage
  exact (congrArg (Runs 2 s) (hq (s.afterCalls s.phase.sent _ txs rxs _)).2).mp hstage

section
variable {s : State} {i : Instr} {k : Nat} {p : Phase} {b : List Byte} {txs : List TxReply} {rxs : List RxEvent}
  {calls : List ChanCall}

/-- A run goes on with the stage of the phase it has reached. -/
theorem Runs.stage (h : Runs k s (s.afterCalls p b (.ok :: txs) (.bytes [Config.ack] :: rxs) calls))
    (hi : Sends (s.afterCalls p b (.ok :: txs) (.bytes [Config.ack] :: rxs) calls) i) (hr : s.env.resetLine = []) :
    Runs (k + 2) s (s.afterCalls p.sent (encode s.cfg i) txs rxs
      (calls ++ stageCalls s.cfg (encode s.cfg i) ({ s with phase := p.sent } : State).ackTimeout)).acknowledged := by
  have hrun := h.append (hi.runs_stage hr rfl rfl)
  rw [State.afterCalls_afterCalls] at hrun
  exact hrun

/-- The same, where the stage leads to the next. -/
theorem Runs.stage_to {q : Phase}
    (h : Runs k s (s.afterCalls p b (.ok :: txs) (.bytes [Config.ack] :: rxs) calls))
    (hi : Sends (s.afterCalls p b (.ok :: txs) (.bytes [Config.ack] :: rxs) calls) i) (hr : s.env.resetLine = [])
    (hq : p.AckedTo q) :
    Runs (k + 2) s (s.afterCalls q (encode s.cfg i) txs rxs
      (calls ++ stageCalls s.cfg (encode s.cfg i) s.cfg.tAck)) := by
  have hrun := h.append (hi.runs_stage_to rfl hq hr rfl rfl)
  rw [State.afterCalls_afterCalls] at hrun
  exact hrun

end

/-! ### The bodies of the commands (R201 to R205) -/

theorem step_readData {s : State} {d : List Byte} {rxs : List RxEvent} (hp : s.phase = .rdData)
    (hr : s.env.resetLine = []) (h : s.env.rxEvents = .bytes d :: rxs) (hd : d.length = s.args.len) :
    step s = .next (({ s with rdBuf := d } : State).afterCalls s.phase s.txBuf s.env.txReplies rxs
      [.rx d.length s.cfg.tData (.ok d)]).done := by
  rw [step_of_no_reset hr, engineStep_readData hp (State.nextRxReply_of_bytes h hd), ← hd, State.rx_of_bytes h rfl]
  exact exec_rdData_of_phase (s := s.afterCalls s.phase s.txBuf s.env.txReplies rxs _) hp d

/-- The channel calls of a read of `d` at `a`. -/
def readCalls (cfg : Params) (a : Addr) (d : List Byte) : List ChanCall :=
  stageCalls cfg (encode cfg .cmdRead) cfg.tAck ++ stageCalls cfg (encode cfg (.addr a)) cfg.tAck ++
    stageCalls cfg (encode cfg (.len (countByte d.length))) cfg.tAck ++ [.rx d.length cfg.tData (.ok d)]

/-- `ReadBody` (R201): the command, the address, the length, then the data. -/
theorem runs_readBody {s : State} {d : List Byte} {txs : List TxReply} {rxs : List RxEvent}
    (hp : s.phase = .rdCmd .send) (hr : s.env.resetLine = []) (hd : d.length = s.args.len)
    (htx : s.env.txReplies = .ok :: .ok :: .ok :: txs)
    (hrx : s.env.rxEvents = .bytes [Config.ack] :: .bytes [Config.ack] :: .bytes [Config.ack] :: .bytes d :: rxs) :
    Runs 7 s (({ s with rdBuf := d } : State).afterCalls .rdData (encode s.cfg (.len (countByte d.length))) txs rxs
      (readCalls s.cfg s.args.addr d)).done := by
  have hcmd := (Sends.cmdRead hp).runs_stage_to hp ackedTo_of_rdCmd hr htx hrx
  have haddr := hcmd.stage_to (.readAddr rfl) hr ackedTo_of_rdAddr
  have hlen := haddr.stage_to (.readLen rfl) hr ackedTo_of_rdLen
  have hrun := hlen.append (runs_one (step_readData rfl hr rfl hd))
  simpa [State.afterCalls, readCalls, hd] using hrun

/-- `WriteBody` (R202) up to its last ACK: the command, the address, the payload. -/
theorem runs_writeBody {s : State} {txs : List TxReply} {rxs : List RxEvent} (hp : s.phase = .wrCmd .send)
    (hr : s.env.resetLine = []) (htx : s.env.txReplies = .ok :: .ok :: .ok :: txs)
    (hrx : s.env.rxEvents = .bytes [Config.ack] :: .bytes [Config.ack] :: .bytes [Config.ack] :: rxs) :
    Runs 6 s (s.afterCalls (.wrPay .await) (encode s.cfg (.pay s.writeOperands.2)) txs rxs
      (writeCalls s.cfg s.writeOperands.1 s.writeOperands.2)).writeDone :=
  have hcmd := (Sends.cmdWrite hp).runs_stage_to hp ackedTo_of_wrCmd hr htx hrx
  have haddr := hcmd.stage_to (.writeAddr rfl) hr ackedTo_of_wrAddr
  haddr.stage (.writePay rfl) hr

/-- The channel calls of an erase of the pages `ps`. -/
def eraseCalls (cfg : Params) (ps : List Half16) : List ChanCall :=
  stageCalls cfg (encode cfg .cmdErase) cfg.tAck ++ stageCalls cfg (encode cfg (.erasePay ps)) cfg.tEraseAck

/-- `EraseBody` (R203): the command, the pages. -/
theorem runs_eraseBody {s : State} {txs : List TxReply} {rxs : List RxEvent} (hp : s.phase = .erCmd .send)
    (hr : s.env.resetLine = []) (htx : s.env.txReplies = .ok :: .ok :: txs)
    (hrx : s.env.rxEvents = .bytes [Config.ack] :: .bytes [Config.ack] :: rxs) :
    Runs 4 s (s.afterCalls (.erPay .await) (encode s.cfg (.erasePay s.args.pageList)) txs rxs
      (eraseCalls s.cfg s.args.pageList)).done :=
  have hcmd := (Sends.cmdErase hp).runs_stage_to hp ackedTo_of_erCmd hr htx hrx
  hcmd.stage (.erasePay rfl) hr

/-- The channel calls of a jump to `a`. -/
def goCalls (cfg : Params) (a : Addr) : List ChanCall :=
  stageCalls cfg (encode cfg .cmdGo) cfg.tAck ++ stageCalls cfg (encode cfg (.addr a)) cfg.tAck

/-- `GoBody` (R204, R205): the command, the address. -/
theorem runs_goBody {s : State} {a : Addr} {txs : List TxReply} {rxs : List RxEvent} (hp : s.phase = .goCmd .send)
    (hr : s.env.resetLine = []) (ha : s.goOperand = some a) (htx : s.env.txReplies = .ok :: .ok :: txs)
    (hrx : s.env.rxEvents = .bytes [Config.ack] :: .bytes [Config.ack] :: rxs) :
    Runs 4 s (s.afterCalls (.goAddr .await) (encode s.cfg (.addr a)) txs rxs (goCalls s.cfg a)).relinquish :=
  have hcmd := (Sends.cmdGo hp).runs_stage_to hp ackedTo_of_goCmd hr htx hrx
  hcmd.stage (.goAddr rfl ha) hr

/-! ### The frames (R93, R98, R103) -/

theorem encode_cmdRead (cfg : Params) : encode cfg .cmdRead = [cfg.opRead, cfg.opRead ^^^ 0xFF] := rfl

theorem encode_cmdErase (cfg : Params) : encode cfg .cmdErase = [cfg.opErase, cfg.opErase ^^^ 0xFF] := rfl

theorem encode_cmdGo (cfg : Params) : encode cfg .cmdGo = [0x21, 0xDE] := rfl

theorem encode_addr (cfg : Params) (a : Addr) : encode cfg (.addr a) = withXor (addrBytes a) := rfl

theorem encode_len_countByte (cfg : Params) (n : Nat) :
    encode cfg (.len (countByte n)) = [BitVec.ofNat 8 (n - 1), BitVec.ofNat 8 (n - 1) ^^^ 0xFF] := rfl

/-- The erase frame lists as many pages as its operand says, within the 127 that the register array holds (R32). -/
theorem encode_erasePay_pageList (cfg : Params) {a : Operands} (h : a.npages ≤ Config.eraseMaxPages) :
    encode cfg (.erasePay a.pageList) =
      withXor (BitVec.ofNat 8 (a.npages - 1) :: pageBytes (a.pages.toList.take a.npages)) := by
  simp [encode, countByte, Operands.pageList, Nat.min_eq_left h]

/-! ### The requests (R200) -/

section
variable {s : State} {r : Request} {hs : List Request}

/-- In `Ready`, past the gate and with good operands the requested operation starts (R181). -/
theorem step_started {o : Op} (hb : s.busy = false) (hp : s.phase = .idle) (hready : s.session = .ready)
    (hr : s.env.resetLine = []) (hh : s.env.host = r :: hs) (ho : opOfCode r.op = o) (hg : s.PassesGate o)
    (hc : (s.latch r hs).operandCheck o = none) (hne : o ≠ .handshake := by simp) :
    step s = .next (startOf o (s.accepted o r hs)) :=
  step_admitted hb hp hr hh ho
    (by rw [State.refusal_past_gate (s := s.latch r hs) hne hg, State.latch_session, if_pos hready, hc])

/-- `r` asks for the jump to `a`: `GO` with that operand, or `GO_ENTRY` with that entry address (R204, R205). -/
def State.AsksJump (s : State) (r : Request) (a : Addr) : Prop :=
  (r.op = 5 ∧ a = r.args.addr) ∨ (r.op = 6 ∧ s.entry = some a)

theorem State.AsksJump.not_upload {a : Addr} (h : s.AsksJump r a) : opOfCode r.op ≠ .upload := by
  rcases h with ⟨hop, _⟩ | ⟨hop, _⟩ <;> simp [hop, opOfCode]

theorem State.AsksJump.goOperand {a : Addr} (h : s.AsksJump r a) (hs : List Request) :
    (s.accepted (opOfCode r.op) r hs).goOperand = some a := by
  rcases h with ⟨hop, rfl⟩ | ⟨hop, he⟩ <;> rw [hop]
  · exact State.goOperand_of_not_goEntry (s := s.accepted .go r hs) (by simp [State.accepted])
  · exact (State.goOperand_of_goEntry rfl).trans he

/-- Both jumps start at the command of Go. -/
theorem State.AsksJump.step_starts {a : Addr} (h : s.AsksJump r a) (hb : s.busy = false) (hp : s.phase = .idle)
    (hready : s.session = .ready) (hr : s.env.resetLine = []) (hh : s.env.host = r :: hs)
    (hmem : Config.opGo ∈ s.cmdSet) :
    step s = .next { s.accepted (opOfCode r.op) r hs with phase := .goCmd .send } := by
  rcases h with ⟨hop, _⟩ | ⟨hop, he⟩
  · rw [step_started (o := .go) hb hp hready hr hh (by rw [hop]; rfl) (State.passesGate_of_mem rfl hmem) rfl, hop]
    rfl
  · rw [step_started (o := .goEntry) hb hp hready hr hh (by rw [hop]; rfl) (State.passesGate_of_mem rfl hmem)
      (by simp [State.operandCheck, he]), hop]
    rfl

end

/-! ### `READ`, `WRITE`, `ERASE`, `GO` and `GO_ENTRY` (R201 to R205) -/

/-- Settles O44: the request, then the body of the read. -/
theorem readRun : Obligations.ReadRun := by
  intro s d r hs txs rxs hb hp hready hr hop hh hmem h1 hmax hd htx hrx
  have ho : opOfCode r.op = .read := by rw [hop]; rfl
  have hlatch := s.latch_of_not_upload (r := r) (by simp [ho]) hs
  have hreq := step_started hb hp hready hr hh ho (State.passesGate_of_mem rfl hmem) (rangeCheck_of_in h1 hmax)
  have hbody := runs_readBody (s := startOf .read (s.accepted .read r hs)) rfl hr hd htx hrx
  refine ⟨_, runs_succ hreq hbody, ?_, ?_⟩
  · simp [State.done, State.afterCalls, startOf, State.accepted, hlatch, hb, hp]
  · simp [State.afterCalls, startOf, State.accepted, hlatch, readCalls, encode_cmdRead, encode_addr,
      encode_len_countByte]

/-- Settles O45: the request, then the body of the write, whose last ACK is the end of `WRITE`. -/
theorem writeRun : Obligations.WriteRun := by
  intro s r hs txs rxs hb hp hready hr hop hh hmem h1 hmax htx hrx
  have ho : opOfCode r.op = .write := by rw [hop]; rfl
  have hlatch := s.latch_of_not_upload (r := r) (by simp [ho]) hs
  have hreq := step_started hb hp hready hr hh ho (State.passesGate_of_mem rfl hmem) (rangeCheck_of_in h1 hmax)
  have hbody := runs_writeBody (s := startOf .write (s.accepted .write r hs)) rfl hr htx hrx
  have hup : (startOf .write (s.accepted .write r hs)).op ≠ .upload := by simp [startOf, State.accepted]
  rw [State.writeDone_of_not_upload (by exact hup), State.writeOperands_of_not_upload hup] at hbody
  refine ⟨_, runs_succ hreq hbody, ?_, ?_⟩
  · simp [State.done, State.afterCalls, startOf, State.accepted, hlatch, hb, hp]
  · simp [State.afterCalls, startOf, State.accepted, hlatch, Operands.bytes]

/-- Settles O46: the request, then the body of the erase, whose frame lists every page asked for. -/
theorem eraseRun : Obligations.EraseRun := by
  intro s r hs txs rxs hb hp hready hr hop hh hmem h1 hmax htx hrx
  have ho : opOfCode r.op = .erase := by rw [hop]; rfl
  have hlatch := s.latch_of_not_upload (r := r) (by simp [ho]) hs
  have hreq := step_started hb hp hready hr hh ho (State.passesGate_of_mem rfl hmem) (rangeCheck_of_in h1 hmax)
  have hbody := runs_eraseBody (s := startOf .erase (s.accepted .erase r hs)) rfl hr htx hrx
  refine ⟨_, runs_succ hreq hbody, ?_, ?_⟩
  · simp [State.done, State.afterCalls, startOf, State.accepted, hlatch, hb, hp]
  · simp [State.afterCalls, startOf, State.accepted, hlatch, eraseCalls, encode_cmdErase,
      encode_erasePay_pageList _ hmax]

/-- Settles O47: the request, then the body of the jump, to the address that the request asks for. -/
theorem goRun : Obligations.GoRun := by
  intro s a r hs txs rxs hb hp hready hr hh hop hmem htx hrx
  have hjump : s.AsksJump r a := hop
  have hlatch := s.latch_of_not_upload hjump.not_upload hs
  have hreq := hjump.step_starts hb hp hready hr hh hmem
  have hbody := runs_goBody (s := { s.accepted (opOfCode r.op) r hs with phase := .goCmd .send }) rfl hr
    (hjump.goOperand hs) htx hrx
  refine ⟨_, runs_succ hreq hbody, ?_, ?_⟩
  · simp [State.relinquish, State.done, State.afterCalls, State.accepted, hlatch, hb, hp]
  · simp [State.afterCalls, State.accepted, hlatch, goCalls, encode_cmdGo, encode_addr]

end Sys2Proof.Machine
end

section
/-! The record parser of 43_hex_parser.md R240 to R249: every line either stops before the checks on its fields or
comes to them with all its digits read; how these checks answer; and how far into a line the parser looks. -/

namespace Sys2Proof

open Machine

/-! ### The digits of a line (R241 to R244) -/

/-- The line is long enough for its count, and its digits decode to these fields (R241 to R244). -/
structure ReadsAs (chars : List Byte) (bc ah al ty : Byte) (d : List Byte) (ck : Byte) : Prop where
  marker : chars[0]? = some Config.recStart
  count : hexByte chars 1 = some bc
  addrHigh : hexByte chars 3 = some ah
  addrLow : hexByte chars 5 = some al
  type : hexByte chars 7 = some ty
  length : 11 + 2 * bc.toNat ≤ chars.length
  data : hexBytes chars 9 bc.toNat = some d
  cksum : hexByte chars (9 + 2 * bc.toNat) = some ck

theorem ReadsAs.parse_eq {chars d : List Byte} {bc ah al ty ck : Byte} (h : ReadsAs chars bc ah al ty d ck) :
    parse chars = parseChecked (half16Of ah al) ty d ck :=
  parse_of_fields h.marker h.count h.addrHigh h.addrLow h.type h.length h.data h.cksum

/-- The bytes under the checksum are the header and the data as they were read (R245). -/
theorem ReadsAs.recordBytes_eq {chars d : List Byte} {bc ah al ty ck : Byte} (h : ReadsAs chars bc ah al ty d ck) :
    recordBytes (half16Of ah al) ty d = bc :: ah :: al :: ty :: d := by
  simp [recordBytes, bytes16_half16Of, hexBytes_length chars _ _ _ h.data]

/-- A line either fails by its marker, its length or a digit, or its fields are read (R241 to R244). -/
theorem parse_fails_or_readsAs (chars : List Byte) :
    (∃ e ∈ [Reject.noMarker, .shortHeader, .badDigit, .shortLine], parse chars = .err e) ∨
      ∃ bc ah al ty d ck, ReadsAs chars bc ah al ty d ck := by
  by_cases h0 : chars[0]? = some Config.recStart
  case neg => exact .inl ⟨.noMarker, by simp, if_pos h0⟩
  by_cases h9 : chars.length < 9
  case pos => exact .inl ⟨.shortHeader, by simp, by rw [parse, if_neg (not_not.mpr h0), if_pos h9]⟩
  rw [parse, if_neg (not_not.mpr h0), if_neg h9]
  split
  case h_2 => exact .inl ⟨.badDigit, by simp, rfl⟩
  case h_1 bc ah al ty h1 h3 h5 h7 =>
    rw [parseBody]
    by_cases hl : chars.length < 11 + 2 * bc.toNat
    case pos => exact .inl ⟨.shortLine, by simp, if_pos hl⟩
    rw [if_neg hl]
    split
    case h_2 => exact .inl ⟨.badDigit, by simp, rfl⟩
    case h_1 d ck hd hck => exact .inr ⟨bc, ah, al, ty, d, ck, h0, h1, h3, h5, h7, not_lt.mp hl, hd, hck⟩

/-! ### The checks on the fields (R245 to R249) -/

/-- Settles O12: the text is that of `encodeRecord`, and its fields pass the checks. -/
theorem parseOfEncodedRecord : Obligations.ParseOfEncodedRecord :=
  fun _ _ _ hd hty => ⟨rfl, parse_encodeRecord hd hty⟩

/-- The type is checked behind the checksum and before the count (R246). -/
theorem parseChecked_eq_unknownType_iff (a : Half16) (ty : Byte) (d : List Byte) (ck : Byte) :
    parseChecked a ty d ck = .err .unknownType ↔
      ck = cksHex (recordBytes a ty d) ∧ ty ≠ 0x00 ∧ ty ≠ 0x01 ∧ ty ≠ 0x04 ∧ ty ≠ 0x05 := by
  unfold parseChecked
  split_ifs <;> simp_all

theorem parseStatus_eq (e : Reject) :
    parseStatus e = if e = .unknownType then .unknownRecordType else .malformedRecord := by
  cases e <;> rfl

/-- Settles O14: a line that stops before the checks has another failure, and of the checks the type's is the one. -/
theorem unknownTypeOnlyWhenOtherwiseWellFormed : Obligations.UnknownTypeOnlyWhenOtherwiseWellFormed := by
  refine ⟨parseStatus_eq, fun chars => ⟨fun hp => ?_, ?_⟩⟩
  · obtain ⟨e, he, hfail⟩ | ⟨bc, ah, al, ty, d, ck, h⟩ := parse_fails_or_readsAs chars
    · obtain rfl := Parsed.err.inj (hfail.symm.trans hp)
      exact absurd he (by decide)
    · rw [h.parse_eq, parseChecked_eq_unknownType_iff] at hp
      obtain ⟨rfl, hty⟩ := hp
      exact ⟨bc, ah, al, ty, d, h.marker, h.count, h.addrHigh, h.addrLow, h.type, h.length, h.data, h.cksum, hty⟩
  · rintro ⟨bc, ah, al, ty, d, h0, h1, h3, h5, h7, hl, hd, hck, hty⟩
    rw [parse_of_fields h0 h1 h3 h5 h7 hl hd hck]
    exact (parseChecked_eq_unknownType_iff ..).mpr ⟨rfl, hty⟩

/-- A line that does not parse ends the upload, the record registers unspecified (R248, R271; log 26). -/
theorem Machine.engineStep_parse_err {s : State} {e : Reject} (hp : s.phase = .upParse) (he : parse s.line = .err e) :
    engineStep s = .next
      ({ s with
          recValid := false, record := freeRecord s.freeCtr, freeCtr := s.freeCtr + 1 }.fail (parseStatus e)) := by
  simp [engineStep, State.fetch, hp, State.parseLine, he]

/-- Settles O13: the checksum is the first check on the fields, and its failure is MalformedRecord. -/
theorem wrongChecksumIsMalformed : Obligations.WrongChecksumIsMalformed := by
  refine ⟨fun chars bc ah al ty c d h0 h1 h3 h5 h7 hl hd hck => ?_, fun a ty d c hd => ?_⟩
  · have h : ReadsAs chars bc ah al ty d c := ⟨h0, h1, h3, h5, h7, hl, hd, hck⟩
    have hbad : parse chars = .err .badChecksum ↔ c ≠ cksHex (bc :: ah :: al :: ty :: d) := by
      rw [h.parse_eq, parseChecked_eq_badChecksum_iff, h.recordBytes_eq]
    refine ⟨hbad, fun s hp hline hc => ?_⟩
    exact engineStep_parse_err hp (hline ▸ hbad.mpr hc)
  · exact (parse_recordText a ty c hd).symm ▸ parseChecked_eq_badChecksum_iff a ty d c

/-! ### What a successful parse leaves (R248) -/

/-- The checks change no field. -/
theorem parseChecked_ok_record {a : Half16} {ty ck : Byte} {d : List Byte} {r : Record}
    (h : parseChecked a ty d ck = .ok r) : r = ⟨a, ty, d, ck⟩ := by
  unfold parseChecked at h
  split_ifs at h
  exact (Parsed.ok.inj h).symm

/-- The dispatch has an instruction for every genuine record (R108). -/
theorem Machine.Genuine.toInstr_ne_none {r : Record} (h : Genuine r) : r.toInstr ≠ none := by
  rcases h.type with ht | ht | ht | ht
  · simp [Record.toInstr, ht]
  · simp [Record.toInstr, ht]
  · obtain ⟨_, _, hd⟩ := List.length_eq_two.mp (h.ela ht)
    simp [Record.toInstr, ht, hd]
  · obtain ⟨_, _, _, _, hd⟩ := List.length_eq_four.mp (h.sla ht)
    simp [Record.toInstr, ht, hd]

/-- Settles O16: the record holds the fields as they were read, and they passed every check. -/
theorem parsedRecordsAreGenuine : Obligations.ParsedRecordsAreGenuine := by
  intro chars r h
  obtain ⟨bc, ah, al, ty, d, ck, h0, _, _, _, _, hl, _, _, hd, hr⟩ := parse_ok_cases h
  have hg := genuine_of_parse h
  obtain rfl := parseChecked_ok_record hr
  exact ⟨hg, h0, by rw [Record.count, hd]; exact hl, hg.toInstr_ne_none⟩

/-! ### How far a line is read (R244) -/

theorem length_of_hexByte {chars : List Byte} {k : Nat} {b : Byte} (h : hexByte chars k = some b) :
    k + 2 ≤ chars.length := by
  by_contra hlt
  rw [hexByte, List.getElem?_eq_none (i := k + 1) (by omega)] at h
  simp at h

/-- Behind the header the rest of the line decides (R242). -/
theorem parse_of_header {chars : List Byte} {bc ah al ty : Byte} (h0 : chars[0]? = some Config.recStart)
    (h1 : hexByte chars 1 = some bc) (h3 : hexByte chars 3 = some ah) (h5 : hexByte chars 5 = some al)
    (h7 : hexByte chars 7 = some ty) : parse chars = parseBody chars bc ah al ty := by
  have h9 := length_of_hexByte h7
  rw [parse, if_neg (not_not.mpr h0), if_neg (by omega), h1, h3, h5, h7]

section
variable {l chars : List Byte} {n : Nat} (h : ∀ i < n, l[i]? = chars[i]?)
include h

/-- A byte is read from its two characters. -/
theorem hexByte_congr {k : Nat} (hk : k + 2 ≤ n) : hexByte l k = hexByte chars k := by
  rw [hexByte, hexByte, h k (by omega), h (k + 1) (by omega)]

theorem hexBytes_congr {k m : Nat} (hk : k + 2 * m ≤ n) : hexBytes l k m = hexBytes chars k m := by
  induction m generalizing k with
  | zero => rfl
  | succ m ih => rw [hexBytes, hexBytes, hexByte_congr h (by omega), ih (by omega)]

/-- Two lines that agree up to the end of the record are read alike behind the header. -/
theorem parseBody_congr {bc : Byte} (ah al ty : Byte) (hn : 11 + 2 * bc.toNat ≤ n) (hl : n ≤ l.length)
    (hchars : n ≤ chars.length) : parseBody l bc ah al ty = parseBody chars bc ah al ty := by
  rw [parseBody, parseBody, if_neg (by omega), if_neg (by omega), hexBytes_congr h (by omega),
    hexByte_congr h (by omega)]

end

/-- Settles O15: a line is too short for its count, or the parser stays before its position 11 + 2*bc. -/
theorem lineLengthFollowsTheByteCount : Obligations.LineLengthFollowsTheByteCount := by
  intro chars bc ah al ty h0 h1 h3 h5 h7
  have hparse := parse_of_header h0 h1 h3 h5 h7
  refine ⟨fun hshort => ⟨hparse.trans (if_pos hshort), rfl⟩, fun hlong more => ?_⟩
  have hagree : ∀ i < 11 + 2 * bc.toNat, (chars.take (11 + 2 * bc.toNat) ++ more)[i]? = chars[i]? := fun i hi => by
    rw [List.getElem?_append_left (by rw [List.length_take]; omega), List.getElem?_take_of_lt hi]
  have hbyte {k : Nat} (hk : k ≤ 7) := hexByte_congr hagree (k := k) (by omega)
  rw [hparse, parse_of_header ((hagree 0 (by omega)).trans h0) ((hbyte (by omega)).trans h1)
    ((hbyte (by omega)).trans h3) ((hbyte (by omega)).trans h5) ((hbyte (by omega)).trans h7)]
  exact parseBody_congr hagree ah al ty le_rfl (by rw [List.length_append, List.length_take]; omega) hlong

end Sys2Proof
end

section
/-! The image sequencer step by step (44_image_sequencer.md R270 to R280): the line it takes, strips and parses, the chunk it
starts or refuses, and what each record type writes. -/

namespace Sys2Proof.Machine

/-! ### The line (R270, R272, R279) -/

/-- The characters that `Strip` takes from the end of a line (R272). -/
def isLineEnding (c : Byte) : Bool := c == 0x0D || c == 0x0A

theorem strip_eq_rdropWhile (chars : List Byte) : strip chars = chars.rdropWhile isLineEnding := rfl

theorem strip_append_endings (body : List Byte) {ends : List Byte} (h : ∀ c ∈ ends, isLineEnding c) :
    strip (body ++ ends) = strip body := by
  rw [strip, List.reverse_append, List.dropWhile_append_of_pos (by simpa [isLineEnding] using h)]
  rfl

/-- A text with another character at its end is left alone. -/
theorem strip_of_last {body : List Byte} (h : ∀ c, body.getLast? = some c → isLineEnding c = false) :
    strip body = body := by
  rw [strip_eq_rdropWhile, List.rdropWhile_eq_self_iff]
  intro hne
  rw [h _ (List.getLast?_eq_some_getLast hne)]
  exact Bool.false_ne_true

/-- Settles O17: the endings go, and the end of the text is none. -/
theorem stripRemovesTrailingLineEndings : Obligations.StripRemovesTrailingLineEndings := by
  intro body ends hends hcr hlf
  rw [strip_append_endings body (by simpa [isLineEnding] using hends)]
  refine strip_of_last fun c hc => ?_
  have hne13 : c ≠ 0x0D := fun h => hcr (h ▸ hc)
  have hne10 : c ≠ 0x0A := fun h => hlf (h ▸ hc)
  exact Bool.or_eq_false_iff.mpr ⟨beq_false_of_ne hne13, beq_false_of_ne hne10⟩

theorem engineStep_nextLine {s : State} (hp : s.phase = .upNext) : engineStep s = .next s.nextLine := by
  rw [engineStep, State.fetch, hp]

theorem engineStep_stripLine {s : State} (hp : s.phase = .upStrip) : engineStep s = .next s.stripLine := by
  rw [engineStep, State.fetch, hp]

theorem State.nextLine_of_line {s : State} {chars : List Byte} {rest : List LineEvent}
    (h : s.env.lines = .line chars :: rest) :
    s.nextLine = { s with line := chars, env := { s.env with lines := rest }, phase := .upStrip } := by
  rw [State.nextLine, h]

theorem State.nextLine_of_end {s : State} (h : s.env.lines = []) :
    s.nextLine = { s with line := [], status := .missingEof, busy := false, phase := .idle } := by
  rw [State.nextLine, h]
  rfl

theorem State.nextLine_of_error {s : State} {rest : List LineEvent} (h : s.env.lines = .error :: rest) :
    s.nextLine =
      { s with
        line := [], env := { s.env with lines := rest }
        status := .lineSourceError, busy := false, phase := .idle } := by
  rw [State.nextLine, h]
  rfl

/-- Settles O40: each phase by what it finds, the next line, the text of the line, or the result of its parse. -/
theorem uploadTakesStripsAndParsesALine : Obligations.UploadTakesStripsAndParsesALine := by
  intro s
  refine ⟨fun hp => ?_, engineStep_stripLine, fun hp => ⟨fun r => engineStep_parse hp, engineStep_parse_err hp, ?_⟩⟩
  · rw [engineStep_nextLine hp]
    exact ⟨fun _ _ h => congrArg _ (State.nextLine_of_line h), fun h => congrArg _ (State.nextLine_of_end h),
      fun _ h => congrArg _ (State.nextLine_of_error h)⟩
  · intro e hne he
    rw [engineStep_parse_err hp he, parseStatus_eq, if_neg hne]
    rfl

/-! ### The chunks of a `DATA` record (R273, R274) -/

section
variable {s : State}

/-- Behind the last byte the dispatch ends (R273). -/
theorem State.nextChunk_of_end (h : ¬ s.chunkOff < s.record.count) : s.nextChunk = s.endDispatch := if_neg h

variable (h : s.chunkOff < s.record.count)
include h

/-- With bytes left the gate and the session state are met, and a refusal ends the upload (R274). -/
theorem State.nextChunk_of_refused {k : Status} (hk : s.gated s.cfg.opWrite none = some k) :
    s.nextChunk = ({ s with recValid := false } : State).fail k := by
  rw [State.nextChunk, if_pos h, hk]

theorem State.nextChunk_of_unsupported (hg : s.cfg.opWrite ∉ s.cmdSet) :
    s.nextChunk = { s with recValid := false, status := .unsupported, busy := false, phase := .idle } :=
  State.nextChunk_of_refused h (State.gated_of_not_mem hg none)

theorem State.nextChunk_of_notReady (hg : s.cfg.opWrite ∈ s.cmdSet) (hr : s.session ≠ .ready) :
    s.nextChunk = { s with recValid := false, status := .notReady, busy := false, phase := .idle } :=
  State.nextChunk_of_refused h ((State.gated_of_mem hg none).trans (if_neg hr))

theorem State.nextChunk_of_admitted (hg : s.cfg.opWrite ∈ s.cmdSet) (hr : s.session = .ready) :
    s.nextChunk = { s with phase := .wrCmd .send } := by
  rw [State.nextChunk, if_pos h, State.gated_of_mem hg, if_pos hr]

end

theorem State.chunkBytes_length (s : State) : s.chunkBytes.length = min s.cfg.chunk (s.record.count - s.chunkOff) := by
  simp [State.chunkBytes]

/-- The last ACK of a chunk advances the record by the bytes sent (R273). -/
theorem State.writeDone_of_upload {s : State} (h : s.op = .upload) :
    s.writeDone = ({ s with
      chunkOff := s.chunkOff + min s.cfg.chunk (s.record.count - s.chunkOff) } : State).nextChunk := by
  rw [State.writeDone, if_pos h, s.chunkBytes_length]

/-- Settles O25: the ACK advances the offset, and the chunk that follows starts, is refused, or is not there. -/
theorem ackOfAChunkAdvancesTheRecord : Obligations.AckOfAChunkAdvancesTheRecord := by
  rintro s off hp hop _ rfl
  rw [exec_ack_of_phase hp (State.writeDone_of_upload hop)]
  exact ⟨fun h hg hr => congrArg _ (State.nextChunk_of_admitted h hg hr),
    fun h hg => congrArg _ (State.nextChunk_of_unsupported h hg),
    fun h hg hr => congrArg _ (State.nextChunk_of_notReady h hg hr),
    fun h => congrArg _ (State.nextChunk_of_end h)⟩

/-! ### The records (R273, R275 to R277) -/

theorem exec_recData (a : Half16) (d : List Byte) (s : State) :
    exec (.recData a d) s =
      .next ({ s with recValid := true, record := Record.make a 0x00 d, chunkOff := 0 } : State).nextChunk := rfl

theorem exec_recEof (a : Half16) (d : List Byte) (s : State) :
    exec (.recEof a d) s = .next ({ s with recValid := false } : State).done := rfl

theorem exec_recEla (a : Half16) (d0 d1 : Byte) (s : State) :
    exec (.recEla a d0 d1) s = .next ({ s with baseAddress := elaBase d0 d1 } : State).endDispatch := rfl

theorem exec_recSla (a : Half16) (d0 d1 d2 d3 : Byte) (s : State) :
    exec (.recSla a d0 d1 d2 d3) s = .next ({ s with entry := some (addrOf d0 d1 d2 d3) } : State).endDispatch := rfl

/-- Settles O28: the end of the upload, and the two dispatches that write one register. -/
theorem eofElaSlaRecords : Obligations.EofElaSlaRecords :=
  fun s a d d0 d1 d2 d3 => ⟨exec_recEof a d s, exec_recEla a d0 d1 s, exec_recSla a d0 d1 d2 d3 s⟩

/-- Settles O29: the dispatch of a `DATA` record is its first chunk, which starts, is refused, or is not there. -/
theorem dataRecordStartsItsWrite : Obligations.DataRecordStartsItsWrite := by
  intro s a d
  rw [exec_recData]
  have hdata (h : d ≠ []) : 0 < (Record.make a 0x00 d).count := List.length_pos_iff.mpr h
  refine ⟨fun h => congrArg _ (State.nextChunk_of_end ?_),
    fun h hg hr => congrArg _ (State.nextChunk_of_admitted (hdata h) hg hr),
    fun h hg => congrArg _ (State.nextChunk_of_unsupported (hdata h) hg),
    fun h hg hr => congrArg _ (State.nextChunk_of_notReady (hdata h) hg hr)⟩
  subst h
  exact Nat.lt_irrefl 0

end Sys2Proof.Machine
end

section
/-! An `UPLOAD` against a target that acknowledges (44_image_sequencer.md R271 to R277): a line that parses, the chunks of a
record, one record, a sequence of records, and the whole upload closed by its `EOF` record. -/

namespace Sys2Proof.Machine

/-! ### A line that parses (R271, R272) -/

theorem isLineEnding_of_hexDigit {c v : Byte} (h : hexDigit c = some v) : isLineEnding c = false := by
  refine Bool.or_eq_false_iff.mpr ⟨beq_false_of_ne ?_, beq_false_of_ne ?_⟩
  · rintro rfl; cases h
  · rintro rfl; cases h

theorem getLast?_encodeRecord (a : Half16) (ty : Byte) (d : List Byte) :
    (encodeRecord a ty d).getLast? = some (hexChar (cksHex (recordBytes a ty d) &&& 0x0F)) := by
  simp [encodeRecord, hexPair, List.flatMap_append, List.getLast?_cons]

/-- The text of a record ends in a digit, so only the line ending behind it goes. -/
theorem strip_encodeRecord (a : Half16) (ty : Byte) (d : List Byte) :
    strip (encodeRecord a ty d ++ [0x0D, 0x0A]) = encodeRecord a ty d := by
  rw [strip_append_endings _ (by decide)]
  refine strip_of_last fun c hc => ?_
  obtain rfl := Option.some.inj ((getLast?_encodeRecord a ty d).symm.trans hc)
  exact isLineEnding_of_hexDigit (hexDigit_low _)

theorem strip_encode {cfg : Params} {i : Instr} (h : i.space = .hexLine) :
    strip (encode cfg i ++ [0x0D, 0x0A]) = encode cfg i := by
  cases i with
  | recData | recEof | recEla | recSla => exact strip_encodeRecord ..
  | _ => simp [Instr.space] at h

/-- `s` about to dispatch the record `r` of the line `text`, with the lines `rest` behind it. -/
def State.withRecord (s : State) (text : List Byte) (r : Record) (rest : List LineEvent) : State :=
  { s with
    line := text, env := { s.env with lines := rest }
    recValid := true, record := r, phase := .upDispatch }

/-- A line is taken, stripped and parsed: three steps. -/
theorem runs_line {s : State} {text : List Byte} {r : Record} {rest : List LineEvent} (hp : s.phase = .upNext)
    (hr : s.env.resetLine = []) (hl : s.env.lines = .line (text ++ [0x0D, 0x0A]) :: rest)
    (hstrip : strip (text ++ [0x0D, 0x0A]) = text) (hparse : parse text = .ok r) :
    Runs 3 s (s.withRecord text r rest) := by
  have htake := (step_of_no_reset hr).trans (engineStep_nextLine hp)
  rw [State.nextLine_of_line hl] at htake
  refine runs_succ htake (runs_succ ((step_of_no_reset (by exact hr)).trans (engineStep_stripLine rfl)) (runs_one ?_))
  rw [State.stripLine, hstrip]
  exact (step_of_no_reset (by exact hr)).trans (engineStep_parse rfl hparse)

/-- The line of a record, ended by CR LF. -/
def recordLine (cfg : Params) (i : Instr) : LineEvent := .line (encode cfg i ++ [0x0D, 0x0A])

/-- The line of a record instruction leads to the execution of that instruction: four steps. -/
theorem runs_recordLine {s : State} {i : Instr} {rest : List LineEvent} (hp : s.phase = .upNext)
    (hr : s.env.resetLine = []) (hc : s.cfg.Valid) (hw : i.wf s.cfg = true) (hi : i.space = .hexLine)
    (hl : s.env.lines = recordLine s.cfg i :: rest) :
    ∃ r, ∀ t, exec i (s.withRecord (encode s.cfg i) r rest) = .next t → Runs 4 s t := by
  have hdecode := decodeOfEncodeIsTheInstruction s.cfg i hc hw
  rw [hi] at hdecode
  obtain ⟨r, hparse, hinstr⟩ := decode_hexLine hdecode
  refine ⟨r, fun t ht => (runs_line hp hr hl (strip_encode hi) hparse).append (runs_one ?_)⟩
  exact (step_of_no_reset (by exact hr)).trans
    ((engineStep_dispatch (s := s.withRecord _ r rest) rfl rfl hinstr).trans ht)

/-! ### A target that acknowledges writes (R202) -/

/-- The channel takes and acknowledges the three frames of each of `n` writes; `txs` and `rxs` come behind. -/
structure AcksWrites (n : Nat) (txs : List TxReply) (rxs : List RxEvent) (s : State) : Prop where
  tx : s.env.txReplies = List.replicate (3 * n) .ok ++ txs
  rx : s.env.rxEvents = List.replicate (3 * n) (.bytes [Config.ack]) ++ rxs

/-- The first of the writes, and the scripts of the others. -/
theorem AcksWrites.succ {n : Nat} {txs : List TxReply} {rxs : List RxEvent} {s : State}
    (h : AcksWrites (n + 1) txs rxs s) :
    s.env.txReplies = .ok :: .ok :: .ok :: (List.replicate (3 * n) .ok ++ txs) ∧
    s.env.rxEvents = .bytes [Config.ack] :: .bytes [Config.ack] :: .bytes [Config.ack] ::
      (List.replicate (3 * n) (.bytes [Config.ack]) ++ rxs) := ⟨h.tx, h.rx⟩

/-- Without a write the scripts are the ones behind. -/
theorem AcksWrites.none_left {txs : List TxReply} {rxs : List RxEvent} {s : State} (h : AcksWrites 0 txs rxs s) :
    s.env.txReplies = txs ∧ s.env.rxEvents = rxs := ⟨h.tx, h.rx⟩

/-- The first `m` of the writes leave the scripts of the other `n`. -/
theorem AcksWrites.split {m n : Nat} {txs : List TxReply} {rxs : List RxEvent} {s : State}
    (h : AcksWrites (m + n) txs rxs s) :
    AcksWrites m (List.replicate (3 * n) .ok ++ txs) (List.replicate (3 * n) (.bytes [Config.ack]) ++ rxs) s where
  tx := by rw [h.tx, Nat.mul_add, List.replicate_add, List.append_assoc]
  rx := by rw [h.rx, Nat.mul_add, List.replicate_add, List.append_assoc]

/-- The channel calls of acknowledged writes, one behind the other. -/
def imageCalls (cfg : Params) (ws : List (Addr × List Byte)) : List ChanCall :=
  ws.flatMap fun w => writeCalls cfg w.1 w.2

theorem imageCalls_append (cfg : Params) (ws vs : List (Addr × List Byte)) :
    imageCalls cfg (ws ++ vs) = imageCalls cfg ws ++ imageCalls cfg vs := List.flatMap_append

/-! ### The chunks of a record (R273, R274) -/

/-- An `UPLOAD` in a session that writes: what its lines and chunks find, and none of them changes. -/
structure Uploading (s : State) : Prop where
  params : s.cfg.Valid
  op : s.op = .upload
  ready : s.session = .ready
  gate : s.cfg.opWrite ∈ s.cmdSet
  noReset : s.env.resetLine = []

theorem Uploading.chunk_pos {s : State} (h : Uploading s) : 0 < s.cfg.chunk := by
  obtain ⟨_, _, _, _, _, hpos, _⟩ := h.params
  exact hpos

/-- The `k`-th chunk of the record in the record registers, with its address (R75, R273). -/
def State.chunkAt (s : State) (k : Nat) : Addr × List Byte :=
  (recordAddress s.baseAddress s.record.addr (k * s.cfg.chunk), (s.record.data.drop (k * s.cfg.chunk)).take s.cfg.chunk)

theorem State.chunksOf_record (s : State) :
    chunksOf s.cfg.chunk s.baseAddress s.record.addr s.record.data =
      (List.range' 0 ((s.record.count + s.cfg.chunk - 1) / s.cfg.chunk)).map s.chunkAt := by
  rw [chunksOf, List.range_eq_range']
  rfl

/-- The chunk that is sent at the offset of the `k`-th is the `k`-th (R273). -/
theorem State.chunkAt_of_off {s : State} {k : Nat} (h : s.chunkOff = k * s.cfg.chunk) :
    s.chunkAt k = (recordAddress s.baseAddress s.record.addr s.chunkOff, s.chunkBytes) := by
  rw [State.chunkBytes, h, State.chunkAt]

/-- `s` behind the acknowledged write of the chunk at its offset, with `txs` and `rxs` left of the scripts. -/
def State.afterChunk (s : State) (b : List Byte) (txs : List TxReply) (rxs : List RxEvent) : State :=
  ({ s with
      chunkOff := s.chunkOff + min s.cfg.chunk (s.record.count - s.chunkOff) } : State).afterCalls (.wrPay .await) b
    txs rxs (writeCalls s.cfg (recordAddress s.baseAddress s.record.addr s.chunkOff) s.chunkBytes)

theorem State.afterChunk_afterCalls (s : State) (p : Phase) (a b : List Byte) (txs txs' : List TxReply)
    (rxs rxs' : List RxEvent) (n : Nat) (calls : List ChanCall) :
    ({ s.afterChunk a txs rxs with chunkOff := n } : State).afterCalls p b txs' rxs' calls =
      ({ s with chunkOff := n } : State).afterCalls p b txs' rxs'
        (writeCalls s.cfg (recordAddress s.baseAddress s.record.addr s.chunkOff) s.chunkBytes ++ calls) :=
  State.afterCalls_afterCalls { s with chunkOff := n } (.wrPay .await) p a b txs txs' rxs rxs' _ calls

/-- One chunk: its write is acknowledged, and the loop test comes next. -/
theorem Uploading.runs_chunk {s : State} (h : Uploading s) (hlt : s.chunkOff < s.record.count) {n : Nat}
    {txs : List TxReply} {rxs : List RxEvent} (hacks : AcksWrites (n + 1) txs rxs s) :
    ∃ b, Runs 6 s.nextChunk (s.afterChunk b (List.replicate (3 * n) .ok ++ txs)
      (List.replicate (3 * n) (.bytes [Config.ack]) ++ rxs)).nextChunk := by
  obtain ⟨htx, hrx⟩ := hacks.succ
  have hbody := runs_writeBody (s := { s with phase := .wrCmd .send }) rfl h.noReset htx hrx
  rw [State.writeOperands_of_upload (by exact h.op), State.writeDone_of_upload (by exact h.op)] at hbody
  rw [State.nextChunk_of_admitted hlt h.gate h.ready]
  exact ⟨_, hbody⟩

/-- `n` bytes in chunks of `c` have a chunk `k` exactly when there are bytes behind the `k` chunks before it. -/
theorem lt_chunkCount_iff {n c : Nat} (hc : 0 < c) (k : Nat) : k < (n + c - 1) / c ↔ k * c < n := by
  rw [Nat.lt_iff_add_one_le, Nat.le_div_iff_mul_le hc, Nat.succ_mul]
  omega

/-- The chunks of a record from the `j`-th on: their writes in order, and then the dispatch ends. -/
theorem Uploading.runs_chunks {s : State} (h : Uploading s) {j m : Nat}
    (hoff : s.chunkOff = min (j * s.cfg.chunk) s.record.count)
    (hcount : (s.record.count + s.cfg.chunk - 1) / s.cfg.chunk = j + m) {txs : List TxReply} {rxs : List RxEvent}
    (hacks : AcksWrites m txs rxs s) :
    ∃ k b, Runs k s.nextChunk (({ s with chunkOff := s.record.count } : State).afterCalls .upNext b txs rxs
      (imageCalls s.cfg ((List.range' j m).map s.chunkAt))).endDispatch := by
  induction m generalizing s j with
  | zero =>
    obtain ⟨rfl, rfl⟩ := hacks.none_left
    have hno : ¬ j * s.cfg.chunk < s.record.count := (lt_chunkCount_iff h.chunk_pos j).not.mp (by omega)
    have hend : s.chunkOff = s.record.count := by omega
    refine ⟨0, s.txBuf, ?_⟩
    rw [State.nextChunk_of_end (by omega), ← hend]
    simpa [State.afterCalls, State.endDispatch, imageCalls] using runs_zero s.endDispatch
  | succ m ih =>
    have hleft : j * s.cfg.chunk < s.record.count := (lt_chunkCount_iff h.chunk_pos j).mp (by omega)
    have hj : s.chunkOff = j * s.cfg.chunk := by omega
    obtain ⟨b, hfirst⟩ := h.runs_chunk (by omega) hacks
    obtain ⟨k, b', hrest⟩ := ih (s := s.afterChunk b _ _) (j := j + 1)
      ⟨h.params, h.op, h.ready, h.gate, h.noReset⟩
      (by simp only [State.afterChunk, State.afterCalls, Nat.succ_mul]; omega) (hcount.trans (by omega)) ⟨rfl, rfl⟩
    rw [State.afterChunk_afterCalls] at hrest
    rw [List.range'_succ, List.map_cons, State.chunkAt_of_off hj]
    exact ⟨6 + k, b', hfirst.append hrest⟩

/-- A whole record from its first chunk on: the writes of its chunks, and then the dispatch ends. -/
theorem Uploading.runs_data {s : State} (h : Uploading s) (hoff : s.chunkOff = 0) {txs : List TxReply}
    {rxs : List RxEvent}
    (hacks : AcksWrites (chunksOf s.cfg.chunk s.baseAddress s.record.addr s.record.data).length txs rxs s) :
    ∃ k b, Runs k s.nextChunk (({ s with chunkOff := s.record.count } : State).afterCalls .upNext b txs rxs
      (imageCalls s.cfg (chunksOf s.cfg.chunk s.baseAddress s.record.addr s.record.data))).endDispatch := by
  rw [State.chunksOf_record] at *
  rw [List.length_map, List.length_range'] at hacks
  exact h.runs_chunks (by simp [hoff]) (Nat.zero_add _).symm hacks

/-! ### A sequence of records (R271, R273, R276, R277) -/

theorem imageBase_cons (base : Addr) (i : Instr) (recs : List Instr) :
    imageBase base (i :: recs) = imageBase (imageBase base [i]) recs := by
  cases i <;> rfl

theorem imageEntry_cons (e : Option Addr) (i : Instr) (recs : List Instr) :
    imageEntry e (i :: recs) = imageEntry (imageEntry e [i]) recs := by
  cases i <;> rfl

theorem imageWrites_cons (n : Nat) (base : Addr) (i : Instr) (recs : List Instr) :
    imageWrites n base (i :: recs) = imageWrites n base [i] ++ imageWrites n (imageBase base [i]) recs := by
  cases i <;> simp [imageWrites, imageBase]

theorem imageWrites_recData (n : Nat) (base : Addr) (a : Half16) (d : List Byte) :
    imageWrites n base [.recData a d] = chunksOf n base a d := List.append_nil _

/-- `i` is a record that an image has before its end. -/
def IsBodyRecord (cfg : Params) (i : Instr) : Prop := i.wf cfg = true ∧ i.space = .hexLine ∧ ∀ a d, i ≠ .recEof a d

/-- What no record of an `UPLOAD` writes. -/
structure KeepsUpload (s t : State) : Prop extends KeepsSession s t where
  cfg : t.cfg = s.cfg
  op : t.op = s.op
  getBuf : t.getBuf = s.getBuf
  rdBuf : t.rdBuf = s.rdBuf

theorem KeepsUpload.trans {s u t : State} (hu : KeepsUpload s u) (ht : KeepsUpload u t) : KeepsUpload s t where
  toKeepsSession := hu.toKeepsSession.trans ht.toKeepsSession
  cfg := ht.cfg.trans hu.cfg
  op := ht.op.trans hu.op
  getBuf := ht.getBuf.trans hu.getBuf
  rdBuf := ht.rdBuf.trans hu.rdBuf

/-- From the next line of `s` an upload has come to the next line of `t`: the records `recs` are dispatched, what they ask
for is written, and `rest`, `txs` and `rxs` are left of the scripts. -/
structure Dispatched (recs : List Instr) (rest : List LineEvent) (txs : List TxReply) (rxs : List RxEvent)
    (s t : State) : Prop extends KeepsUpload s t where
  phase : t.phase = .upNext
  lineIndex : t.lineIndex = s.lineIndex + recs.length
  baseAddress : t.baseAddress = imageBase s.baseAddress recs
  entry : t.entry = imageEntry s.entry recs
  env : t.env = { s.env with
    lines := rest, txReplies := txs, rxEvents := rxs
    trace := s.env.trace ++ imageCalls s.cfg (imageWrites s.cfg.chunk s.baseAddress recs) }

section
variable {s u t : State} {i : Instr} {recs : List Instr} {lines rest : List LineEvent} {txs' txs : List TxReply}
  {rxs' rxs : List RxEvent}

theorem Dispatched.uploading (h : Dispatched recs rest txs rxs s t) (hs : Uploading s) : Uploading t where
  params := h.cfg ▸ hs.params
  op := h.op.trans hs.op
  ready := h.session.trans hs.ready
  gate := by rw [h.cfg, h.cmdSet]; exact hs.gate
  noReset := by rw [h.env]; exact hs.noReset

/-- Before the first record. -/
theorem Dispatched.nil (hp : s.phase = .upNext) (hl : s.env.lines = rest) (hacks : AcksWrites 0 txs rxs s) :
    Dispatched [] rest txs rxs s s := by
  obtain ⟨rfl, rfl⟩ := hacks.none_left
  subst hl
  exact ⟨⟨⟨rfl, rfl⟩, rfl, rfl, rfl, rfl⟩, hp, rfl, rfl, rfl, by simp [imageWrites, imageCalls]⟩

/-- The first record, and then the others. -/
theorem Dispatched.cons (hu : Dispatched [i] lines txs' rxs' s u) (ht : Dispatched recs rest txs rxs u t) :
    Dispatched (i :: recs) rest txs rxs s t where
  toKeepsUpload := hu.toKeepsUpload.trans ht.toKeepsUpload
  phase := ht.phase
  lineIndex := by rw [ht.lineIndex, hu.lineIndex, List.length_singleton, List.length_cons]; omega
  baseAddress := by rw [ht.baseAddress, hu.baseAddress, ← imageBase_cons]
  entry := by rw [ht.entry, hu.entry, ← imageEntry_cons]
  env := by
    rw [ht.env, hu.env, hu.cfg, hu.baseAddress, imageWrites_cons _ _ i recs, imageCalls_append, ← List.append_assoc]

/-- One record, whose dispatch ends from `u`. -/
theorem Dispatched.of_endDispatch (hk : KeepsUpload s u) (hi : u.lineIndex = s.lineIndex)
    (hb : u.baseAddress = imageBase s.baseAddress [i]) (he : u.entry = imageEntry s.entry [i])
    (henv : u.env = { s.env with
      lines := rest, txReplies := txs, rxEvents := rxs
      trace := s.env.trace ++ imageCalls s.cfg (imageWrites s.cfg.chunk s.baseAddress [i]) }) :
    Dispatched [i] rest txs rxs s u.endDispatch :=
  ⟨⟨⟨hk.session, hk.cmdSet⟩, hk.cfg, hk.op, hk.getBuf, hk.rdBuf⟩, rfl, congrArg (· + 1) hi, hb, he, henv⟩

end

/-- A record other than `EOF` against a target that acknowledges: its line, its writes, and the next line. -/
theorem Uploading.runs_record {s : State} (h : Uploading s) (hp : s.phase = .upNext) {i : Instr}
    (hi : IsBodyRecord s.cfg i) {rest : List LineEvent} (hl : s.env.lines = recordLine s.cfg i :: rest)
    {txs : List TxReply} {rxs : List RxEvent}
    (hacks : AcksWrites (imageWrites s.cfg.chunk s.baseAddress [i]).length txs rxs s) :
    ∃ k t, Runs k s t ∧ Dispatched [i] rest txs rxs s t := by
  obtain ⟨hw, hspace, heof⟩ := hi
  obtain ⟨r, hline⟩ := runs_recordLine hp h.noReset h.params hw hspace hl
  cases i with
  | recData a d =>
    have hstart := hline _ (exec_recData ..)
    rw [imageWrites_recData] at hacks
    obtain ⟨k, b, hchunks⟩ := Uploading.runs_data
      (s := { s.withRecord _ r rest with recValid := true, record := Record.make a 0x00 d, chunkOff := 0 })
      ⟨h.params, h.op, h.ready, h.gate, h.noReset⟩ rfl ⟨hacks.tx, hacks.rx⟩
    refine ⟨4 + k, _, hstart.append hchunks, .of_endDispatch ⟨⟨rfl, rfl⟩, rfl, rfl, rfl, rfl⟩ rfl rfl rfl ?_⟩
    rw [imageWrites_recData]
    rfl
  | recEla a d0 d1 =>
    obtain ⟨rfl, rfl⟩ := AcksWrites.none_left hacks
    refine ⟨4, _, hline _ (exec_recEla ..), .of_endDispatch ⟨⟨rfl, rfl⟩, rfl, rfl, rfl, rfl⟩ rfl rfl rfl ?_⟩
    simp [State.withRecord, imageWrites, imageCalls]
  | recSla a d0 d1 d2 d3 =>
    obtain ⟨rfl, rfl⟩ := AcksWrites.none_left hacks
    refine ⟨4, _, hline _ (exec_recSla ..), .of_endDispatch ⟨⟨rfl, rfl⟩, rfl, rfl, rfl, rfl⟩ rfl rfl rfl ?_⟩
    simp [State.withRecord, imageWrites, imageCalls]
  | recEof a d => exact absurd rfl (heof a d)
  | _ => cases hspace

/-- Any sequence of such records, one behind the other. -/
theorem Uploading.runs_records {s : State} (h : Uploading s) (hp : s.phase = .upNext) {recs : List Instr}
    (hrecs : ∀ i ∈ recs, IsBodyRecord s.cfg i) {rest : List LineEvent}
    (hl : s.env.lines = recs.map (recordLine s.cfg) ++ rest) {txs : List TxReply} {rxs : List RxEvent}
    (hacks : AcksWrites (imageWrites s.cfg.chunk s.baseAddress recs).length txs rxs s) :
    ∃ k t, Runs k s t ∧ Dispatched recs rest txs rxs s t := by
  induction recs generalizing s with
  | nil => exact ⟨0, s, runs_zero s, .nil hp hl hacks⟩
  | cons i recs ih =>
    rw [imageWrites_cons, List.length_append] at hacks
    obtain ⟨k, u, hfirst, hu⟩ := h.runs_record hp (hrecs i List.mem_cons_self) hl hacks.split
    obtain ⟨m, t, hothers, ht⟩ := ih (hu.uploading h) hu.phase
      (by rw [hu.cfg]; exact fun j hj => hrecs j (List.mem_cons_of_mem i hj)) (by rw [hu.env, hu.cfg]; rfl)
      (by rw [hu.cfg, hu.baseAddress]; exact ⟨by rw [hu.env], by rw [hu.env]⟩)
    exact ⟨k + m, t, hfirst.append hothers, hu.cons ht⟩

/-! ### The whole upload (R271, R275) -/

/-- Settles O48: the request, the records in the order of their lines, and the `EOF` record, which ends the upload. -/
theorem uploadWritesTheImage : Obligations.UploadWritesTheImage := by
  rintro s recs ea ed more r hs txs rxs _ hcfg hb hp hready hr hop hh hgate hrecs hed hlines rfl htx hrx
  have ho : opOfCode r.op = .upload := by rw [hop]; rfl
  have hreq := step_started hb hp hready hr hh ho (State.passesGate_of_ungated rfl) rfl
  have hstart : Uploading (startOf .upload (s.accepted .upload r hs)) := ⟨hcfg, rfl, hready, hgate, hr⟩
  have hsource : (startOf .upload (s.accepted .upload r hs)).env.lines =
      recs.map (recordLine s.cfg) ++ recordLine s.cfg (.recEof ea ed) :: more := by
    rw [← List.singleton_append, ← List.append_assoc, ← List.map_singleton, ← List.map_append]
    exact (if_pos ho).trans hlines
  obtain ⟨k, u, hrun, hu⟩ := hstart.runs_records rfl hrecs hsource ⟨htx, hrx⟩
  have hup := hu.uploading hstart
  obtain ⟨_, hend⟩ := runs_recordLine (i := .recEof ea ed) hu.phase hup.noReset hup.params (decide_eq_true hed) rfl
    (by rw [hu.env, hu.cfg]; rfl)
  exact ⟨_, _, runs_succ hreq (hrun.append (hend _ (exec_recEof ..))), rfl, hup.ready, rfl, rfl,
    hu.lineIndex.trans (Nat.zero_add _), rfl, rfl, hu.cmdSet, hu.baseAddress, hu.entry, hu.getBuf, hu.rdBuf,
    congrArg (fun e : Env => { e with lines := more }) hu.env⟩

end Sys2Proof.Machine
end

section
/-! The step never stops (60_exceptions.md R300, R305; log 18): where the fetch stops, and that the invariant
excludes it. -/

namespace Sys2Proof.Machine

/-- A receive stops only where what follows its bytes does: its failures end the operation (R142, R305). -/
theorem State.receive_ne_stop {s : State} {n t : Nat} {got : List Byte → State → Fetch} {f : Fault}
    (h : ∀ b u, got b u ≠ .stop f) : s.receive n t got ≠ .stop f := by
  rcases s.receive_cases n t got with ⟨b, _, _, e⟩ | ⟨_, e⟩ | ⟨_, e⟩ <;> rw [e]
  · exact h b _
  · exact Fetch.noConfusion
  · exact Fetch.noConfusion

@[simp] theorem State.fetchResponse_ne_stop (s : State) (f : Fault) : s.fetchResponse ≠ .stop f :=
  State.receive_ne_stop fun _ _ => Fetch.noConfusion

@[simp] theorem State.fetchGetLength_ne_stop (s : State) (f : Fault) : s.fetchGetLength ≠ .stop f :=
  State.receive_ne_stop fun _ _ => Fetch.noConfusion

@[simp] theorem State.fetchGetList_ne_stop (s : State) (n : Byte) (f : Fault) : s.fetchGetList n ≠ .stop f :=
  State.receive_ne_stop fun _ _ => Fetch.noConfusion

@[simp] theorem State.fetchReadData_ne_stop (s : State) (f : Fault) : s.fetchReadData ≠ .stop f :=
  State.receive_ne_stop fun _ _ => Fetch.noConfusion

@[simp] theorem State.fetchRequest_ne_stop (s : State) (f : Fault) : s.fetchRequest ≠ .stop f := by
  unfold State.fetchRequest
  split
  · exact Fetch.noConfusion
  · split <;> exact Fetch.noConfusion

theorem State.goOperand_of_fetchGoAddr_stop {s : State} {f : Fault} (h : s.fetchGoAddr = .stop f) :
    s.goOperand = none := by
  unfold State.fetchGoAddr at h
  split at h
  · cases h
  · assumption

theorem State.dead_of_fetchRecord_stop {s : State} {f : Fault} (h : s.fetchRecord = .stop f) :
    s.recValid = false ∨ s.record.toInstr = none := by
  unfold State.fetchRecord at h
  split at h
  · split at h
    · cases h
    · exact .inr ‹_›
  · exact .inl (Bool.eq_false_iff.mpr ‹_›)

/-- The two places where the fetch stops: a jump without an entry address, a dispatch without a record (log 18). -/
theorem State.fetch_stop_cases {s : State} {f : Fault} (h : s.fetch = .stop f) :
    (s.phase = .goAddr .send ∧ s.goOperand = none) ∨
    (s.phase = .upDispatch ∧ (s.recValid = false ∨ s.record.toInstr = none)) := by
  unfold State.fetch at h
  split at h
  case h_29 hp => exact .inl ⟨hp, State.goOperand_of_fetchGoAddr_stop h⟩ -- `GO_ADDR`
  case h_34 hp => exact .inr ⟨hp, State.dead_of_fetchRecord_stop h⟩ -- `UP_DISPATCH`
  all_goals simp at h -- every other phase runs an instruction or acts

/-- Where the address of a jump is sent, there is one (R26, R205). -/
theorem EngineInv.goOperand_ne_none {s : State} (h : EngineInv s) (hp : s.phase = .goAddr .send) :
    s.goOperand ≠ none := by
  obtain ⟨_, ho⟩ : Config.opGo ∈ s.cmdSet ∧ (s.op = .go ∨ (s.op = .goEntry ∧ s.entry ≠ none)) := by
    simpa only [PhaseOk, hp] using h.phaseOk
  rcases ho with ho | ⟨ho, hentry⟩
  · simp [State.goOperand_of_not_goEntry, ho]
  · rwa [State.goOperand_of_goEntry ho]

/-- Where a record is dispatched, the record registers hold one of the four types (R33). -/
theorem EngineInv.dispatches_a_record {s : State} (h : EngineInv s) (hp : s.phase = .upDispatch) :
    s.recValid = true ∧ s.record.toInstr ≠ none := by
  obtain ⟨_, hv⟩ : s.op = .upload ∧ s.recValid = true := by simpa only [PhaseOk, hp] using h.phaseOk
  obtain ⟨hg, _, _⟩ := h.record hv
  exact ⟨hv, hg.toInstr_ne_none⟩

theorem EngineInv.fetch_ne_stop {s : State} (h : EngineInv s) (f : Fault) : s.fetch ≠ .stop f := by
  intro hf
  rcases State.fetch_stop_cases hf with ⟨hp, hnone⟩ | ⟨hp, hdead⟩
  · exact h.goOperand_ne_none hp hnone
  · obtain ⟨hv, hrecord⟩ := h.dispatches_a_record hp
    exact hdead.elim (fun hf => Bool.noConfusion (hf.symm.trans hv)) hrecord

/-- Every meaning answers a next state, so the engine stops only where its fetch does. -/
theorem engineStep_next {s : State} (h : ∀ f, s.fetch ≠ .stop f) : ∃ t, engineStep s = .next t := by
  unfold engineStep
  split
  · exact exec_next _ _
  · exact ⟨_, rfl⟩
  · exact absurd ‹_› (h _)

/-- Settles O51: a reset answers a state, and without one the invariant excludes both places where the fetch stops. -/
theorem stepFromTheInvariantNeverStops : Obligations.StepFromTheInvariantNeverStops := by
  intro s h
  by_cases hn : NoReset s
  · rw [step_engine hn]
    exact engineStep_next (h.writeUnread _ s.freeCtr s.line s.lineIndex).fetch_ne_stop
  · obtain ⟨e, he⟩ := step_of_asserted hn
    exact ⟨_, he⟩

end Sys2Proof.Machine
end

section
/-! A closed session and the ends of the operations (60_exceptions.md R302, R309): what an idle engine does, that only a
`HANDSHAKE` leads out of `Faulted` and `Relinquished`, and the kinds each operation ends in. -/

namespace Sys2Proof.Machine

/-! ### The idle engine (R21, R313) -/

theorem EngineInv.phase_of_not_busy {s : State} (h : EngineInv s) (hb : s.busy = false) : s.phase = .idle := by
  by_contra hp
  exact Bool.noConfusion (hb.symm.trans (h.busy_of_phase hp))

/-- An engine that is not busy waits while the host asks for nothing, and otherwise takes the next request. -/
theorem engineStep_idle_cases {s t : State} (hp : s.phase = .idle) (hb : s.busy = false) (h : engineStep s = .next t) :
    (s.env.host = [] ∧ t = s) ∨ ∃ r rest, s.env.host = r :: rest ∧
      t = (s.latch r rest).request (opOfCode r.op) (startOf (opOfCode r.op)) := by
  cases hh : s.env.host with
  | nil =>
    have hf : s.fetch = .internal s := by simp [State.fetch, State.fetchRequest, hp, hb, hh]
    rw [engineStep, hf] at h
    exact .inl ⟨rfl, (Host.Outcome.next.inj h).symm⟩
  | cons r rest =>
    rw [engineStep_request hp hb hh, decodeOp, exec_operation] at h
    exact .inr ⟨r, rest, rfl, (Host.Outcome.next.inj h).symm⟩

/-- A step of an idle engine, behind the read level of the reset input. -/
theorem EngineInv.idle_step_cases {s t : State} (h : EngineInv s) (hn : NoReset s) (hb : s.busy = false)
    (hst : step s = .next t) : ∃ e : Env, e.trace = s.env.trace ∧
      ((s.env.host = [] ∧ t = { s with env := e }) ∨ ∃ r rest, s.env.host = r :: rest ∧
        t = (State.latch { s with env := e } r rest).request (opOfCode r.op) (startOf (opOfCode r.op))) :=
  have hp := h.phase_of_not_busy hb
  ⟨{ s.env with resetLine := s.env.resetLine.tail }, rfl,
    engineStep_idle_cases (s := { s with env := { s.env with resetLine := s.env.resetLine.tail } }) hp hb
      ((step_engine hn).symm.trans hst)⟩

@[simp] theorem startOf_op (o : Op) (s : State) : (startOf o s).op = s.op := by cases o <;> rfl
@[simp] theorem startOf_busy (o : Op) (s : State) : (startOf o s).busy = s.busy := by cases o <;> rfl
@[simp] theorem startOf_status (o : Op) (s : State) : (startOf o s).status = s.status := by cases o <;> rfl

/-- An accepted request writes `op`, also one that is refused (log 23). -/
theorem State.request_op {s : State} (hb : s.busy = false) (o : Op) : (s.request o (startOf o)).op = o := by
  rcases s.request_cases o (startOf o) with ⟨hb', _⟩ | ⟨_, k, _, e⟩ | ⟨_, _, e⟩
  · exact Bool.noConfusion (hb.symm.trans hb')
  · rw [e, State.fail_op]
  · rw [e, startOf_op]

theorem code_of_handshake {c : BitVec 3} (h : opOfCode c = .handshake) : c = 0 := by
  rw [← opOfCode_code c, h]
  rfl

/-! ### Out of a closed session (R309, R311) -/

theorem EngineInv.not_busy_of_closed {s : State} (h : EngineInv s)
    (hs : s.session = .faulted ∨ s.session = .relinquished) : s.busy = false := by
  refine Bool.eq_false_iff.mpr fun hb => ?_
  rcases h.session_of_busy hb with e | e <;> simp [e] at hs

/-- Settles O53: in a closed session the engine is idle; it waits, or takes a request, which makes no channel call and
moves the session only as a `HANDSHAKE`. -/
theorem onlyHandshakeLeavesFaultedOrRelinquished : Obligations.OnlyHandshakeLeavesFaultedOrRelinquished := by
  intro s t h hn hclosed hst
  have hb := h.not_busy_of_closed hclosed
  obtain ⟨e, htrace, ⟨_, rfl⟩ | ⟨r, rest, hhost, rfl⟩⟩ := h.idle_step_cases hn hb hst
  · exact ⟨htrace, .inl rfl⟩
  · have hcall := makesNoCall_operation (s := State.latch { s with env := e } r rest) (opOfCode r.op)
      (exec_operation _ _)
    refine ⟨hcall.trace.trans htrace, ?_⟩
    rcases State.request_session_cases (State.latch _ r rest) (opOfCode r.op) with hk | ⟨hb', hnew⟩
    · exact .inl hk.session
    · have ho : opOfCode r.op = .handshake := (State.request_op hb' _).symm.trans hnew.op
      exact .inr ⟨r, rest, hhost, code_of_handshake ho, hnew.op, hnew.session⟩

/-! ### The kinds of the table (R302) -/

theorem ok_mem_endKinds (o : Op) : .ok ∈ endKinds o := by cases o <;> decide

/-- Every operation may end in the three kinds of a stage (R142, R144, R146). -/
theorem stageKind_mem_endKinds {k : Status} (h : k ∈ [.transportError, .protocolNack, .protocolTimeout]) (o : Op) :
    k ∈ endKinds o := by
  simp only [List.mem_cons, List.not_mem_nil, or_false] at h
  rcases h with rfl | rfl | rfl <;> cases o <;> decide

/-- The two operations that run Get may end in BufferTooSmall (R177). -/
theorem bufferTooSmall_mem_endKinds {o : Op} (h : o = .handshake ∨ o = .get) : .bufferTooSmall ∈ endKinds o := by
  rcases h with rfl | rfl <;> decide

theorem parseStatus_mem_endKinds (e : Reject) : parseStatus e ∈ endKinds .upload := by
  cases e <;> decide

theorem State.readyCheck_eq_some {s : State} {k : Status} (h : s.readyCheck = some k) : k = .notReady := by
  unfold State.readyCheck at h
  split at h <;> cases h
  rfl

theorem rangeCheck_eq_some {n max : Nat} {k : Status} (h : rangeCheck n max = some k) : k = .badOperand := by
  unfold rangeCheck at h
  split at h <;> cases h
  rfl

/-- A gated request is refused in a kind of the table, when its operand check refuses in one. -/
theorem State.gated_mem_endKinds {s : State} {o : Op} {x : Byte} {c : Option Status} {k : Status}
    (hgate : .unsupported ∈ endKinds o) (hready : .notReady ∈ endKinds o) (hc : c = some k → k ∈ endKinds o)
    (h : s.gated x c = some k) : k ∈ endKinds o := by
  rcases s.gated_cases x c with ⟨_, e⟩ | ⟨_, _, e⟩ | ⟨_, _, e⟩ <;> rw [e] at h
  · cases h; exact hgate
  · cases h; exact hready
  · exact hc h

theorem State.refusal_mem_endKinds {s : State} {o : Op} {k : Status} (h : s.refusal o = some k) : k ∈ endKinds o := by
  cases o with
  | handshake => cases h
  | get | upload => obtain rfl := State.readyCheck_eq_some h; decide
  | read | write | erase =>
    exact State.gated_mem_endKinds (by decide) (by decide) (fun hk => by obtain rfl := rangeCheck_eq_some hk; decide) h
  | go => exact State.gated_mem_endKinds (by decide) (by decide) (fun hk => by cases hk) h
  | goEntry => exact State.gated_mem_endKinds (by decide) (by decide) (fun hk => by split at hk <;> cases hk; decide) h

/-! ### The operation goes on or ends -/

/-- In `t` the operation is running and the status is still `k`, or it has ended in a kind of its row of R302. -/
inductive RunsOrEnded (k : Status) (t : State) : Prop where
  | runs (busy : t.busy = true) (status : t.status = k)
  | ended (busy : t.busy = false) (phase : t.phase = .idle) (kind : t.status ∈ endKinds t.op)

namespace RunsOrEnded

theorem of_rx {s t : State} {n tm : Nat} (h : RunsOrEnded (s.rx n tm).status t) : RunsOrEnded s.status t := by
  rwa [State.rx_status] at h

theorem fail {k k' : Status} {s : State} (h : k' ∈ endKinds s.op) : RunsOrEnded k (s.fail k') := .ended rfl rfl h

/-- A failed stage ends any operation in a kind of its row. -/
theorem stageFails {k : Status} (k' : Status) (s : State)
    (h : k' ∈ [.transportError, .protocolNack, .protocolTimeout] := by decide) : RunsOrEnded k (s.stageFails k') :=
  .ended rfl rfl (stageKind_mem_endKinds h s.op)

theorem bufferTooSmall {k : Status} {s : State} (h : s.op = .handshake ∨ s.op = .get) :
    RunsOrEnded k (s.stageFails .bufferTooSmall) := .ended rfl rfl (bufferTooSmall_mem_endKinds h)

theorem done {k : Status} (s : State) : RunsOrEnded k s.done := .ended rfl rfl (ok_mem_endKinds s.op)

/-- A request is refused in a kind of its row, or its operation runs (R200). -/
theorem request {s : State} (hb : s.busy = false) (o : Op) : RunsOrEnded s.status (s.request o (startOf o)) := by
  rcases s.request_cases o (startOf o) with ⟨hb', _⟩ | ⟨_, k, hk, e⟩ | ⟨_, _, e⟩
  · exact Bool.noConfusion (hb.symm.trans hb')
  · rw [e]; exact fail (State.refusal_mem_endKinds hk)
  · rw [e]; exact .runs (startOf_busy ..) (startOf_status ..)

section
variable {s : State} (hb : s.busy = true)
include hb

theorem sendFrame (f : List Byte) : RunsOrEnded s.status (s.sendFrame f) := by
  rcases s.sendFrame_cases f with ⟨_, e⟩ | ⟨_, e⟩ <;> rw [e]
  · exact .runs ((s.tx_busy f).trans hb) (s.tx_status f)
  · exact stageFails .transportError _

theorem drainOnce : RunsOrEnded s.status s.drainOnce := by
  have hrx : (s.rx 1 s.cfg.tDrain).busy = true := (s.rx_busy ..).trans hb
  rcases s.drainOnce_cases with e | e <;> rw [e] <;> exact .runs hrx (s.rx_status 1 s.cfg.tDrain)

theorem getLengthByte (ho : s.op = .handshake ∨ s.op = .get) (n : Byte) :
    RunsOrEnded s.status (s.getLengthByte n) := by
  rcases s.getLengthByte_cases n with ⟨_, e⟩ | ⟨_, e⟩ <;> rw [e]
  · exact bufferTooSmall ho
  · exact .runs hb rfl

theorem getDone : RunsOrEnded s.status s.getDone := by
  unfold State.getDone
  split
  · exact .runs hb rfl
  · exact done s

theorem getRsp {t : State} {v : Byte} {ops : List Byte} (ho : s.op = .handshake ∨ s.op = .get)
    (h : exec (.getRsp v ops) s = .next t) : RunsOrEnded s.status t := by
  rcases getRsp_cases h with rfl | rfl | rfl
  · exact .runs hb rfl
  · exact bufferTooSmall ho
  · exact getDone (s := { s with getBuf := v :: ops }) hb

theorem rdData {t : State} {d : List Byte} (h : exec (.rdData d) s = .next t) : RunsOrEnded s.status t := by
  rcases rdData_cases h with rfl | rfl
  · exact .runs hb rfl
  · exact done _

theorem endDispatch : RunsOrEnded s.status s.endDispatch :=
  .runs ((State.endDispatch_busy s).trans hb) (State.endDispatch_status s)

/-- A chunk that is refused ends the `UPLOAD` (R274). -/
theorem nextChunk (ho : s.op = .upload) : RunsOrEnded s.status s.nextChunk := by
  rcases s.nextChunk_cases with ⟨_, _, _, e⟩ | ⟨⟨k, hk, e⟩, _⟩ | ⟨_, e⟩ <;> rw [e]
  · exact .runs hb rfl
  · refine fail (?_ : k ∈ endKinds s.op)
    rw [ho]
    rcases hk with rfl | rfl <;> decide
  · exact .runs hb rfl

theorem writeDone : RunsOrEnded s.status s.writeDone := by
  unfold State.writeDone
  split
  · exact nextChunk (s := { s with chunkOff := s.chunkOff + s.chunkBytes.length }) hb ‹_›
  · exact done s

theorem acknowledged : RunsOrEnded s.status s.acknowledged := by
  unfold State.acknowledged
  split
  case h_8 => exact writeDone hb -- the ACK of a payload
  case h_10 => exact done s -- of an erase list
  case h_12 => exact done _ -- of a jump address
  all_goals exact .runs hb rfl

theorem nextLine (ho : s.op = .upload) : RunsOrEnded s.status s.nextLine := by
  unfold State.nextLine
  split
  · exact fail (by simp [ho, endKinds])
  · exact fail (by simp [ho, endKinds])
  · exact .runs hb rfl

theorem parseLine (ho : s.op = .upload) : RunsOrEnded s.status s.parseLine := by
  unfold State.parseLine
  split
  · exact .runs hb rfl
  · refine fail (?_ : _ ∈ endKinds s.op)
    rw [ho]
    exact parseStatus_mem_endKinds _

theorem record {t : State} {r : Record} {i : Instr} (ho : s.op = .upload) (hr : r.toInstr = some i)
    (h : exec i s = .next t) : RunsOrEnded s.status t := by
  rcases record_cases hr h with ⟨_, rfl⟩ | ⟨_, rfl⟩ | ⟨d0, d1, _, _, rfl⟩ | ⟨d0, d1, d2, d3, _, _, rfl⟩
  · exact nextChunk (s := { s with recValid := true, record := Record.make r.addr 0x00 r.data, chunkOff := 0 }) hb ho
  · exact done { s with recValid := false }
  · exact endDispatch (s := { s with baseAddress := elaBase d0 d1 }) hb
  · exact endDispatch (s := { s with entry := some (addrOf d0 d1 d2 d3) }) hb

end

end RunsOrEnded

/-- A move of a busy engine goes on with the operation, or ends it in a kind of its row. -/
theorem EngineMove.runsOrEnded {s t : State} (m : EngineMove s t) (h : EngineInv s) (hb : s.busy = true) :
    RunsOrEnded s.status t := by
  have hrx {n tm : Nat} : (s.rx n tm).busy = true := (s.rx_busy n tm).trans hb
  have hok := h.phaseOk
  cases m with
  | wait | stripLine => exact .runs hb rfl
  | request _ hf => exact Bool.noConfusion (hf.symm.trans hb)
  | send => exact .sendFrame hb _
  | acked => exact .of_rx (.acknowledged hrx)
  | nacked | silent | broken => exact .stageFails _ _
  | drain => exact .drainOnce hb
  | getLen hp =>
    simp only [PhaseOk, hp] at hok
    exact .of_rx (.getLengthByte hrx (by rwa [State.rx_op]) _)
  | getList hp _ _ he =>
    simp only [PhaseOk, hp] at hok
    obtain ⟨ho, _⟩ := hok
    exact .of_rx (.getRsp hrx (by rwa [State.rx_op]) he)
  | readData _ _ _ he => exact .of_rx (.rdData hrx he)
  | commit => exact .done _
  | nextLine hp => exact .nextLine hb (by simpa only [PhaseOk, hp] using hok)
  | parseLine hp => exact .parseLine hb (by simpa only [PhaseOk, hp] using hok)
  | dispatch hp _ hi he =>
    simp only [PhaseOk, hp] at hok
    obtain ⟨ho, _⟩ := hok
    exact .record hb ho hi he

/-- A running operation has not ended, and has written no status. -/
theorem RunsOrEnded.status_only_at_the_end {k : Status} {t : State} (h : RunsOrEnded k t) :
    (t.status ≠ k → t.busy = false ∧ t.phase = .idle) ∧ (t.busy = false → t.status ∈ endKinds t.op) := by
  cases h with
  | runs hb hs => exact ⟨fun hne => absurd hs hne, fun hf => Bool.noConfusion (hf.symm.trans hb)⟩
  | ended hb hp hk => exact ⟨fun _ => ⟨hb, hp⟩, fun _ => hk⟩

/-- Settles O56: an idle engine waits or takes a request, a busy one goes on or ends its operation. -/
theorem operationsEndInTheirKinds : Obligations.OperationsEndInTheirKinds := by
  intro s t h hn hst
  by_cases hb : s.busy = true
  · have hr : RunsOrEnded s.status t :=
      (step_move hst hn).runsOrEnded (h.writeUnread _ s.freeCtr s.line s.lineIndex) hb
    exact hr.status_only_at_the_end.imp_right fun hend hf _ => hend hf
  · have hf : s.busy = false := Bool.eq_false_iff.mpr hb
    obtain ⟨e, _, ⟨hhost, rfl⟩ | ⟨r, rest, _, rfl⟩⟩ := h.idle_step_cases hn hf hst
    · exact ⟨fun hne => absurd rfl hne, fun _ hasked => absurd hasked (by simpa [hf] using hhost)⟩
    · have hr := RunsOrEnded.request (s := State.latch { s with env := e } r rest) hf (opOfCode r.op)
      exact hr.status_only_at_the_end.imp_right fun hend hidle _ => hend hidle

end Sys2Proof.Machine
end

section
/-! The reset input (70_reset_and_hazards.md R350, R351): a step by the level it reads first. -/

namespace Sys2Proof.Machine

/-- A released reset input leaves the engine its own step, the level read. -/
theorem step_of_released {s : State} {rest : List Bool} (h : s.env.resetLine = false :: rest) :
    step s = engineStep { s with env := { s.env with resetLine := rest } } := by
  have hn : NoReset s := by simp [NoReset, h]
  rw [step_engine hn, h, List.tail_cons]

/-- Settles O30: a reset input that is silent or released leaves the engine its step; an asserted one gives the values of O31. -/
theorem stepReadsTheResetInput : Obligations.StepReadsTheResetInput := by
  refine fun s => ⟨step_of_no_reset, fun _ h => step_of_released h, fun rest h => ?_⟩
  exact ⟨_, step_reset h, State.resetNow_env _, State.resetNow_cfg _, resetStateHoldsTheResetValues⟩

end Sys2Proof.Machine
end
